-- ==== Sys2Proof/Word.lean ====
section
/-! DEFINITION. The word types of the block: a buffer byte, a 16-bit checksum or raw value, a 32-bit physical,
nominal or pattern register (10_state.md R23). -/

namespace Sys2Proof

/-- A byte is 8 bits (00_scope.md R8). -/
abbrev Byte := BitVec 8

/-- The width of checksums and raw values (10_state.md R23, R27, R39). -/
abbrev Half := BitVec 16

/-- The width of PHYS, CAL_V, CAL_I and FLD_W32 (10_state.md R40 to R42). -/
abbrev Word := BitVec 32

end Sys2Proof
end

