-- ==== Sys2Proof/Syntax.lean ====
section
/-! DEFINITION. The instructions: one constructor per row of spec/opcode_table.json. A command word has no operand
fields (30_encoding.md R86), so the 15 commands carry none. -/

namespace Sys2Proof

/-- The rows of the opcode table (30_encoding.md R87, R88, R91). -/
inductive Instr where
  /-- NOP, code 0x00 (44_control.md R180). -/
  | nop
  /-- CLRERR, code 0x01 (44_control.md R181). -/
  | clrerr
  /-- CSCLR, code 0x10 (40_checksum.md R112). -/
  | csclr
  /-- CSADD, code 0x11 (40_checksum.md R113). -/
  | csadd
  /-- ENC.Q, code 0x20: build a Query telegram (41_frame_codec.md R121). -/
  | encQ
  /-- ENC.S, code 0x21: build a Send telegram (41_frame_codec.md R121). -/
  | encS
  /-- DEC, code 0x30 (41_frame_codec.md R125). -/
  | dec
  /-- UNPK16, code 0x40 (42_fields.md R150). -/
  | unpk16
  /-- PK16, code 0x41 (42_fields.md R151). -/
  | pk16
  /-- F32BITS, code 0x42 (42_fields.md R153). -/
  | f32bits
  /-- SCUP.V, code 0x50 (43_scaler.md R162). -/
  | scupV
  /-- SCUP.I, code 0x51 (43_scaler.md R162). -/
  | scupI
  /-- SCDN.V, code 0x52 (43_scaler.md R165). -/
  | scdnV
  /-- SCDN.I, code 0x53 (43_scaler.md R165). -/
  | scdnI
  /-- CALLOCK, code 0x60 (43_scaler.md R168). -/
  | callock
  /-- The row "(unassigned)": a code with no row of its own (30_encoding.md R88, 44_control.md R182). -/
  | unassigned (code : Byte)
  /-- TG.QUERY, pattern 0111LLLL: byte 0 of an outbound Query telegram (30_encoding.md R81, R91). As a command word it
  is one of R88's unassigned codes (DEDUCED, log 7). -/
  | tgQuery (len : BitVec 4)
  /-- TG.SEND, pattern 1111LLLL: byte 0 of an outbound Send telegram (30_encoding.md R81, R91). As a command word it is
  one of R88's unassigned codes (DEDUCED, log 7). -/
  | tgSend (len : BitVec 4)
deriving DecidableEq, Repr

end Sys2Proof
end

