-- ==== Sys2Proof/WellFormed.lean ====
section
/-! DEFINITION. Well-formed instructions. Only the row "(unassigned)" carries a value that another row could claim: its
code must be no assigned code and match neither start-delimiter pattern. -/

namespace Sys2Proof

/-- The 15 assigned command codes (30_encoding.md R87). -/
def assignedCodes : List Byte :=
  [0x00#8, 0x01#8, 0x10#8, 0x11#8, 0x20#8, 0x21#8, 0x30#8, 0x40#8, 0x41#8, 0x42#8, 0x50#8, 0x51#8, 0x52#8, 0x53#8, 0x60#8]

/-- Bits [6:4] are 0b111: the pattern 0111LLLL or 1111LLLL (30_encoding.md R81, R91). -/
def isStartDelimiter (c : Byte) : Bool :=
  c.extractLsb' 4 3 == 0b111#3

/-- The checks on an instruction, one arm per constructor. -/
def Instr.wellFormed : Instr → Bool
  | .nop => true
  | .clrerr => true
  | .csclr => true
  | .csadd => true
  | .encQ => true
  | .encS => true
  | .dec => true
  | .unpk16 => true
  | .pk16 => true
  | .f32bits => true
  | .scupV => true
  | .scupI => true
  | .scdnV => true
  | .scdnI => true
  | .callock => true
  | .unassigned c => !assignedCodes.contains c && !isStartDelimiter c
  | .tgQuery _ => true
  | .tgSend _ => true

end Sys2Proof
end

