-- ==== Sys2Proof/Decode.lean ====
section
/-! DEFINITION. Decoding a command word, total on any bytes, and the encoder (30_encoding.md R86 to R91). -/

namespace Sys2Proof

/-- Why a byte sequence is no command word. Every single byte is one (30_encoding.md R88, R90). -/
inductive DecodeError where
  /-- No byte at all. -/
  | noByte
  /-- More than one byte: there are no multi-word commands (30_encoding.md R90). -/
  | tooLong
deriving DecidableEq, Repr

/-- The opcode map of 30_encoding.md R87. -/
def opcodeMap : List (Byte × Instr) :=
  [(0x00#8, .nop), (0x01#8, .clrerr),
   (0x10#8, .csclr), (0x11#8, .csadd),
   (0x20#8, .encQ), (0x21#8, .encS),
   (0x30#8, .dec),
   (0x40#8, .unpk16), (0x41#8, .pk16), (0x42#8, .f32bits),
   (0x50#8, .scupV), (0x51#8, .scupI), (0x52#8, .scdnV), (0x53#8, .scdnI),
   (0x60#8, .callock)]

/-- The instruction of one command word: its row of R87, else the start-delimiter pattern it matches (R91), else
"(unassigned)" (R88). All three kinds of unassigned code behave the same way when run (log 7). -/
def decodeByte (c : Byte) : Instr :=
  match opcodeMap.lookup c with
  | some i => i
  | none =>
    if c.extractLsb' 4 4 = 0x7#4 then .tgQuery (c.extractLsb' 0 4)
    else if c.extractLsb' 4 4 = 0xF#4 then .tgSend (c.extractLsb' 0 4)
    else .unassigned c

/-- Decoding a byte sequence: a command word is exactly one byte (30_encoding.md R90, log 13). -/
def decode : List Byte → Except DecodeError Instr
  | [] => .error .noByte
  | [c] => .ok (decodeByte c)
  | _ :: _ :: _ => .error .tooLong

/-- The command word of an instruction, from the same tables (30_encoding.md R87, R91). -/
def encode : Instr → List Byte
  | .nop => [0x00#8]
  | .clrerr => [0x01#8]
  | .csclr => [0x10#8]
  | .csadd => [0x11#8]
  | .encQ => [0x20#8]
  | .encS => [0x21#8]
  | .dec => [0x30#8]
  | .unpk16 => [0x40#8]
  | .pk16 => [0x41#8]
  | .f32bits => [0x42#8]
  | .scupV => [0x50#8]
  | .scupI => [0x51#8]
  | .scdnV => [0x52#8]
  | .scdnI => [0x53#8]
  | .callock => [0x60#8]
  | .unassigned c => [c]
  | .tgQuery l => [0x7#4 ++ l]
  | .tgSend l => [0xF#4 ++ l]

/-- What the decoder reads from an instruction of `nbits` bits with value `w`, its word laid out as one byte. The
longest instruction is 8 bits, so a longer word is refused (30_encoding.md R90). -/
def decodeTableWord (nbits w : Nat) : Option Instr :=
  if nbits ≤ 8 then
    match decode [BitVec.ofNat 8 (w % 2 ^ nbits)] with
    | .ok i => some i
    | .error _ => none
  else none

end Sys2Proof
end

