-- ==== Sys2Proof/Config.lean ====
section
/-! DEFINITION. What an implementation fixes (the parameters of 00_scope.md R7) and the free values (the buffer bytes
that 70_reset_and_hazards.md R220 leaves unspecified). -/

namespace Sys2Proof

/-- The byte spaces of 20_memory.md R60. -/
inductive BufSpace where
  /-- PAYBUF, the outbound payload (10_state.md R44). -/
  | pay
  /-- TXBUF, the outbound frame (10_state.md R45). -/
  | tx
  /-- RXBUF, the inbound frame (10_state.md R46). -/
  | rx
deriving DecidableEq, Repr

/-- The values of parameter ROUND_TIES (00_scope.md R7, 43_scaler.md R161). -/
inductive RoundTies where
  | even
  | away
deriving DecidableEq, Repr

/-- A physical weight: `num / den` volts or amperes. DESIGN CHOICE (log 4): the spec fixes no representation. -/
structure PhysUnit where
  num : Nat
  den : Nat
deriving DecidableEq, Repr

/-- The parameters of 00_scope.md R7. -/
structure Params where
  /-- RX_CAP, the bytes of RXBUF; legal values 21..255. -/
  rxCap : Nat
  /-- ROUND_TIES. -/
  ties : RoundTies
  /-- UNIT_V, informative: no rule reads it. -/
  unitV : PhysUnit
  /-- UNIT_I, informative: no rule reads it. -/
  unitI : PhysUnit
deriving DecidableEq, Repr

/-- The spec's defaults: RX_CAP = 21, ROUND_TIES = EVEN, 1 mV, 1 mA (00_scope.md R7). -/
def Params.default : Params :=
  { rxCap := 21, ties := .even, unitV := { num := 1, den := 1000 }, unitI := { num := 1, den := 1000 } }

/-- The legal values: 21 ≤ RX_CAP ≤ 255 (00_scope.md R7). Both values of ROUND_TIES are legal. -/
abbrev Params.Legal (p : Params) : Prop := 21 ≤ p.rxCap ∧ p.rxCap ≤ 255

/-- The byte that a buffer holds where nothing has written since the last reset: an arbitrary value that no rule
constrains (70_reset_and_hazards.md R220, 93_implementation_defined.md I4). It is fixed from one reset to the next,
since no read changes state (20_memory.md R68), and free anew after each; `epoch` counts the resets (logs 5 and 6). -/
opaque Config.unwrittenByte (epoch : Nat) (space : BufSpace) (index : Nat) : Byte

end Sys2Proof
end

