-- ==== Sys2Proof/Machine/State.lean ====
section
/-! DEFINITION. The machine's state as plain data: the 20 registers of 10_state.md R23, the three byte buffers, the
parameters, and the model's own fields for the host's side of the interface. -/

namespace Sys2Proof.Machine

/-- STATUS (10_state.md R25). The reserved bits [15:8] read 0 and are never written, so they have no storage
(log 12); the 16-bit register is `Status.word` (Machine/Flags.lean). -/
structure Status where
  /-- ERR, bits [3:0]: the outcome of the most recent command. -/
  err : BitVec 4
  /-- STICKY, bit [4]. -/
  sticky : Bool
  /-- RX_VALID, bit [5]. -/
  rxValid : Bool
  /-- RX_ACK, bit [6]. -/
  rxAck : Bool
  /-- CAL_LOCK, bit [7]. -/
  calLock : Bool
deriving DecidableEq, Repr

/-- FAULT (10_state.md R26). Bits [7:4] read 0 and have no storage (log 12); the register is `FaultReg.word`. -/
structure FaultReg where
  /-- KIND, bits [3:0]. -/
  kind : BitVec 4
  /-- CODE, bits [15:8]. -/
  code : Byte
deriving DecidableEq, Repr

/-- A byte buffer: the bytes written since the last reset, in one canonical form (addresses strictly rising). An
unlisted address reads as "no byte", so no entry equals what an unlisted address reads as; the machine's read turns
"no byte" into the free value of `Config.unwrittenByte` (log 5). -/
abbrev Memory := List Host.Cell

/-- The host's transactions (20_memory.md R60). A written value is any integer, of which the register or byte keeps
the low bits (00_scope.md R9, 20_memory.md R61); a buffer index is any natural number, in range or not (R62; log 10). -/
inductive HostOp where
  | regRead (index : BitVec 8)
  | regWrite (index : BitVec 8) (value : Int)
  | bufRead (space : BufSpace) (index : Nat)
  | bufWrite (space : BufSpace) (index : Nat) (value : Int)
  | reset
deriving DecidableEq, Repr

/-- One pending transaction and the agent that issues it (60_exceptions.md R212). -/
structure Transaction where
  agent : Nat
  op : HostOp
deriving DecidableEq, Repr

/-- The 20 mapped registers (10_state.md R23). -/
inductive Reg where
  | cmd | status | fault | csacc | csIn | txNode | txObj | payLen | txLen | txCs
  | rxLen | rxPlen | rxCscalc | rxCsrecv | fldOff | raw16 | fldW32 | phys | calV | calI
deriving DecidableEq, Repr

/-- The engine errors (60_exceptions.md R190). Their codes are `EngineError.code`. -/
inductive EngineError where
  /-- ERR 1: an unassigned command code. -/
  | illegalCmd
  /-- ERR 2: PAY_LEN > 16. -/
  | encLength
  /-- ERR 3: RX_LEN > RX_CAP. -/
  | overrun
  /-- ERR 4: RX_LEN < 5. -/
  | truncated
  /-- ERR 5: the computed and the received sum differ. -/
  | checksumMismatch
  /-- ERR 6: a valid frame that reports a device fault. -/
  | deviceFault
  /-- ERR 7: a field outside the frame, or a payload that is not 4 bytes. -/
  | fieldRange
  /-- ERR 8: the scaler was used before CALLOCK. -/
  | notCalibrated
  /-- ERR 9: a zero nominal at CALLOCK. -/
  | calInvalid
  /-- ERR 10: a scaled result that does not fit its register. -/
  | range
deriving DecidableEq, Repr

/-- The device's fault vocabulary (41_frame_codec.md R126, 60_exceptions.md R195). -/
inductive DeviceFault where
  | checksumIncorrect
  | startDelimiterIncorrect
  | wrongOutputAddress
  | objectNotDefined
  | objectLengthIncorrect
  | accessDenied
  | deviceLocked
  | upperLimitExceeded
  | lowerLimitExceeded
  /-- Any other nonzero code; FAULT.CODE keeps it (41_frame_codec.md R127). -/
  | unknownFault
deriving DecidableEq, Repr

/-- The whole state. -/
structure State where
  /-- CMD, 8 bits (10_state.md R24). -/
  cmd : Byte
  /-- STATUS, 16 bits (R25). -/
  status : Status
  /-- FAULT, 16 bits (R26). -/
  fault : FaultReg
  /-- CSACC, the checksum accumulator (R27). -/
  csacc : Half
  /-- CS_IN (R28). -/
  csIn : Byte
  /-- TX_NODE (R29). -/
  txNode : Byte
  /-- TX_OBJ (R30). -/
  txObj : Byte
  /-- PAY_LEN (R31). -/
  payLen : BitVec 5
  /-- TX_LEN (R32). -/
  txLen : BitVec 5
  /-- TX_CS (R33). -/
  txCs : Half
  /-- RX_LEN (R34). -/
  rxLen : Byte
  /-- RX_PLEN (R35). -/
  rxPlen : Byte
  /-- RX_CSCALC (R36). -/
  rxCscalc : Half
  /-- RX_CSRECV (R37). -/
  rxCsrecv : Half
  /-- FLD_OFF (R38). -/
  fldOff : Byte
  /-- RAW16 (R39). -/
  raw16 : Half
  /-- FLD_W32 (R40). -/
  fldW32 : Word
  /-- PHYS (R41). -/
  phys : Word
  /-- CAL_V (R42). -/
  calV : Word
  /-- CAL_I (R42). -/
  calI : Word
  /-- PAYBUF (R44). -/
  pay : Memory
  /-- TXBUF (R45). -/
  tx : Memory
  /-- RXBUF (R46). -/
  rx : Memory
  /-- The parameters (00_scope.md R7), which 10_state.md R49 counts in the full state; no step changes them (log 3). -/
  params : Params
  /-- The MODEL's own: host transactions that have not happened yet, oldest first (log 1). -/
  pending : List Transaction
  /-- The MODEL's own: what the host's reads returned, newest first (log 11). -/
  replies : List Word
  /-- The MODEL's own: the agent that has used this instance, if any has (log 8). -/
  owner : Option Nat
  /-- The MODEL's own: how many Reset transactions there have been (log 6). -/
  epoch : Nat
deriving DecidableEq, Repr

/-- Where the machine stops with a fault. The spec has no fault that stops the block (20_memory.md R70,
60_exceptions.md R203): engine errors are recorded in STATUS and the block goes on. -/
inductive Fault where
  /-- Raised by SCUP.V and SCUP.I when STATUS.CAL_LOCK = 1 and the channel's nominal is 0: 43_scaler.md R161 defines
  `round_div` for b ≥ 1 only, and R162 says that the case cannot be. No run from reset reaches it. Safe (log 9). -/
  | zeroNominal
deriving DecidableEq, Repr

/-- Where the model gives no meaning. -/
inductive Refusal where
  /-- An instruction without a meaning; no arm of `exec` answers it. Safe. -/
  | notModelled (mnemonic : String)
  /-- Raised by a step whose transaction comes from another agent than the one that has used the instance: "a model
  refuses such a run" (60_exceptions.md R212, 93_implementation_defined.md I13). Safe (log 8). -/
  | secondHost
deriving DecidableEq, Repr

/-- The machine right after reset (70_reset_and_hazards.md R220): every register 0, every buffer byte unspecified
(nothing is listed), the parameters at the spec's defaults (00_scope.md R7, log 3), no transaction pending (log 1). -/
def State.reset : State :=
  { cmd := 0#8
    status := { err := 0#4, sticky := false, rxValid := false, rxAck := false, calLock := false }
    fault := { kind := 0#4, code := 0#8 }
    csacc := 0#16, csIn := 0#8, txNode := 0#8, txObj := 0#8, payLen := 0#5, txLen := 0#5, txCs := 0#16
    rxLen := 0#8, rxPlen := 0#8, rxCscalc := 0#16, rxCsrecv := 0#16, fldOff := 0#8, raw16 := 0#16
    fldW32 := 0#32, phys := 0#32, calV := 0#32, calI := 0#32
    pay := [], tx := [], rx := []
    params := Params.default
    pending := [], replies := [], owner := none, epoch := 0 }

end Sys2Proof.Machine
end

