-- ==== Sys2Proof/Machine/Constants.lean ====
section
/-! DEFINITION. The fixed parameters of 00_scope.md R6 and the register map of 10_state.md R23, each literal in one
place (93_implementation_defined.md I5). The device's fault codes stand in `deviceFaultOf` (Machine/Codec.lean). -/

namespace Sys2Proof.Machine

/-- MAX_PAYLOAD (00_scope.md R6). -/
def maxPayload : Nat := 16

/-- MIN_FRAME (00_scope.md R6). -/
def minFrame : Nat := 5

/-- HEADER (00_scope.md R6). -/
def headerLen : Nat := 3

/-- TRAILER (00_scope.md R6). -/
def trailerLen : Nat := 2

/-- TX_MAX = HEADER + MAX_PAYLOAD + TRAILER (00_scope.md R6). -/
def txMax : Nat := headerLen + maxPayload + trailerLen

/-- FULL_SCALE (00_scope.md R6). -/
def fullScale : Int := 25600

/-- SD_BASE (00_scope.md R6). -/
def sdBase : Byte := 0x30#8

/-- QUERY_TYPE (00_scope.md R6). -/
def queryType : Byte := 0x40#8

/-- SEND_TYPE (00_scope.md R6). -/
def sendType : Byte := 0xC0#8

/-- The register index of each register (10_state.md R23). -/
def Reg.index : Reg → BitVec 8
  | .cmd => 0x00#8
  | .status => 0x01#8
  | .fault => 0x02#8
  | .csacc => 0x03#8
  | .csIn => 0x04#8
  | .txNode => 0x05#8
  | .txObj => 0x06#8
  | .payLen => 0x07#8
  | .txLen => 0x08#8
  | .txCs => 0x09#8
  | .rxLen => 0x0A#8
  | .rxPlen => 0x0B#8
  | .rxCscalc => 0x0C#8
  | .rxCsrecv => 0x0D#8
  | .fldOff => 0x0E#8
  | .raw16 => 0x0F#8
  | .fldW32 => 0x10#8
  | .phys => 0x11#8
  | .calV => 0x12#8
  | .calI => 0x13#8

/-- The 20 registers in the order of their indices (10_state.md R23). -/
def allRegs : List Reg :=
  [.cmd, .status, .fault, .csacc, .csIn, .txNode, .txObj, .payLen, .txLen, .txCs,
   .rxLen, .rxPlen, .rxCscalc, .rxCsrecv, .fldOff, .raw16, .fldW32, .phys, .calV, .calI]

/-- The register at an index; none for 0x14..0xFF (10_state.md R23, 20_memory.md R62). -/
def Reg.ofIndex (i : BitVec 8) : Option Reg :=
  allRegs.find? (fun r => r.index == i)

/-- The code of an engine error (60_exceptions.md R190). -/
def EngineError.code : EngineError → BitVec 4
  | .illegalCmd => 1#4
  | .encLength => 2#4
  | .overrun => 3#4
  | .truncated => 4#4
  | .checksumMismatch => 5#4
  | .deviceFault => 6#4
  | .fieldRange => 7#4
  | .notCalibrated => 8#4
  | .calInvalid => 9#4
  | .range => 10#4

/-- FAULT.KIND of a device fault (60_exceptions.md R195). -/
def DeviceFault.kind : DeviceFault → BitVec 4
  | .checksumIncorrect => 1#4
  | .startDelimiterIncorrect => 2#4
  | .wrongOutputAddress => 3#4
  | .objectNotDefined => 4#4
  | .objectLengthIncorrect => 5#4
  | .accessDenied => 6#4
  | .deviceLocked => 7#4
  | .upperLimitExceeded => 8#4
  | .lowerLimitExceeded => 9#4
  | .unknownFault => 10#4

end Sys2Proof.Machine
end

