-- ==== Sys2Proof/Machine/Ops.lean ====
section
/-! DEFINITION. The named operations over buffers and STATUS: reading and writing a byte, the two ends of every command
(`done`, `raise`), and Reset. -/

namespace Sys2Proof.Machine

/-- The byte listed at an address, if one is. -/
def Memory.read : Memory → Nat → Option Byte
  | [], _ => none
  | (k, b) :: m, a => if k = a then some b else Memory.read m a

/-- Writing a byte, keeping the addresses strictly rising. -/
def Memory.write : Memory → Nat → Byte → Memory
  | [], a, b => [(a, b)]
  | (k, c) :: m, a, b =>
    if a < k then (a, b) :: (k, c) :: m
    else if a = k then (a, b) :: m
    else (k, c) :: Memory.write m a b

/-- The listed addresses rise strictly, start at `lo` or above and stay below `size`. -/
def Memory.wfFrom (size : Nat) : Nat → Memory → Bool
  | _, [] => true
  | lo, (k, _) :: m => decide (lo ≤ k) && decide (k < size) && Memory.wfFrom size (k + 1) m

/-- The canonical form of a buffer of `size` bytes. -/
def Memory.wf (size : Nat) (m : Memory) : Bool :=
  Memory.wfFrom size 0 m

/-- The size of a byte space (20_memory.md R60). -/
def State.bufSize (s : State) : BufSpace → Nat
  | .pay => maxPayload
  | .tx => txMax
  | .rx => s.params.rxCap

/-- The contents of a byte space. -/
def State.bufMem (s : State) : BufSpace → Memory
  | .pay => s.pay
  | .tx => s.tx
  | .rx => s.rx

/-- Replacing the contents of a byte space. -/
def State.setBufMem (s : State) : BufSpace → Memory → State
  | .pay, m => { s with pay := m }
  | .tx, m => { s with tx := m }
  | .rx, m => { s with rx := m }

/-- `MemRead(S:i, 1)` (00_scope.md R10). A byte that nothing has written since the last reset reads as its free value
(70_reset_and_hazards.md R220, log 5). -/
def State.memRead (s : State) (space : BufSpace) (i : Nat) : Byte :=
  (Memory.read (s.bufMem space) i).getD (Config.unwrittenByte s.epoch space i)

/-- `MemWrite(S:i, 1, v)` (00_scope.md R10). -/
def State.memWrite (s : State) (space : BufSpace) (i : Nat) (b : Byte) : State :=
  s.setBufMem space (Memory.write (s.bufMem space) i b)

/-- The `n` bytes from index `i` on: `S[i .. i+n)` (00_scope.md R8). -/
def State.memReadList (s : State) (space : BufSpace) (i : Nat) : Nat → List Byte
  | 0 => []
  | n + 1 => s.memRead space i :: s.memReadList space (i + 1) n

/-- Writing a byte sequence from index `i` on, lowest index first. -/
def State.memWriteList (s : State) (space : BufSpace) (i : Nat) : List Byte → State
  | [] => s
  | b :: bs => (s.memWrite space i b).memWriteList space (i + 1) bs

/-- `done`: the command ends normally and ERR becomes 0 (00_scope.md R10). -/
def State.done (s : State) : State :=
  { s with status := { s.status with err := 0#4 } }

/-- `raise <Error>`: ERR becomes the error's code and STICKY becomes 1; what the command wrote before remains and nothing
else changes (00_scope.md R10, 60_exceptions.md R190, R203). An error is no trap: nothing is saved, no mode changes and
there is no return from it (R203, R204). Its record ends with the next command (ERR) and with CLRERR or Reset (STICKY). -/
def State.raise (s : State) (e : EngineError) : State :=
  { s with status := { s.status with err := e.code, sticky := true } }

/-- `x[CSACC] <- v` (00_scope.md R10). -/
def State.setCsacc (s : State) (v : Half) : State :=
  { s with csacc := v }

/-- `x[TX_LEN] <- len` and `x[TX_CS] <- cs`, the encoder's results (41_frame_codec.md R121). -/
def State.setTxResult (s : State) (len : BitVec 5) (cs : Half) : State :=
  { s with txLen := len, txCs := cs }

/-- `x[PAY_LEN] <- n` (42_fields.md R151). -/
def State.setPayLen (s : State) (n : BitVec 5) : State :=
  { s with payLen := n }

/-- `x[RAW16] <- v` (42_fields.md R150, 43_scaler.md R162). -/
def State.setRaw16 (s : State) (v : Half) : State :=
  { s with raw16 := v }

/-- `x[FLD_W32] <- v` (42_fields.md R153). -/
def State.setFldW32 (s : State) (v : Word) : State :=
  { s with fldW32 := v }

/-- `x[PHYS] <- v` (43_scaler.md R165). -/
def State.setPhys (s : State) (v : Word) : State :=
  { s with phys := v }

/-- `x[FAULT] <- f` (41_frame_codec.md R125). -/
def State.setFault (s : State) (f : FaultReg) : State :=
  { s with fault := f }

/-- `x[RX_PLEN] <- n` (41_frame_codec.md R125). -/
def State.setRxPlen (s : State) (n : Byte) : State :=
  { s with rxPlen := n }

/-- `x[RX_CSCALC] <- computed` and `x[RX_CSRECV] <- received` (41_frame_codec.md R125). -/
def State.setSums (s : State) (computed received : Half) : State :=
  { s with rxCscalc := computed, rxCsrecv := received }

/-- `x[STATUS].CAL_LOCK <- 1` (43_scaler.md R168). -/
def State.lockCalibration (s : State) : State :=
  { s with status := { s.status with calLock := true } }

/-- Clearing STICKY, which CLRERR alone does among the commands (44_control.md R181). -/
def State.clearSticky (s : State) : State :=
  { s with status := { s.status with sticky := false } }

/-- Clearing RX_VALID and RX_ACK, as a host write to RXBUF or RX_LEN and the start of DEC do (20_memory.md R68,
41_frame_codec.md R125). -/
def State.clearRxFlags (s : State) : State :=
  { s with status := { s.status with rxValid := false, rxAck := false } }

/-- Reset (70_reset_and_hazards.md R220): every register 0 and every buffer byte arbitrary anew. The parameters stay;
so do the host's side of the interface (log 15) and, counted up, the number of resets (log 6). -/
def State.hardReset (s : State) : State :=
  { State.reset with
    params := s.params, pending := s.pending, replies := s.replies, owner := s.owner, epoch := s.epoch + 1 }

end Sys2Proof.Machine
end

