-- ==== Sys2Proof/Machine/Operands.lean ====
section
/-! DEFINITION. Operand forms: numbers cut to a width, byte order of the telegram fields, the operands that command
bits select, and the inbound frame's bytes. -/

namespace Sys2Proof.Machine

/-- `trunc_N(v)`: the low N bits of the two's-complement form of v (00_scope.md R9). -/
def truncTo (n : Nat) (v : Int) : BitVec n :=
  BitVec.ofInt n v

/-- `v[15:8]` (00_scope.md R8). -/
def hiByte (v : Half) : Byte :=
  v.extractLsb' 8 8

/-- `v[7:0]` (00_scope.md R8). -/
def loByte (v : Half) : Byte :=
  v.extractLsb' 0 8

/-- A big-endian 16-bit field: `(hi << 8) | lo` (20_memory.md R64). -/
def be16 (hi lo : Byte) : Half :=
  hi ++ lo

/-- A byte-reversed 32-bit field: wire bytes b0, b1, b2, b3 form `{b3, b2, b1, b0}` (20_memory.md R64). -/
def reversed32 (b0 b1 b2 b3 : Byte) : Word :=
  b3 ++ b2 ++ b1 ++ b0

/-- The request kind, CMD[0] of the encoder group (30_encoding.md R89). -/
inductive RequestKind where
  | query
  | send
deriving DecidableEq, Repr

/-- The type code of a request kind (30_encoding.md R81, R89). -/
def RequestKind.typeCode : RequestKind → Byte
  | .query => queryType
  | .send => sendType

/-- The scaler's channel, CMD[0] of the scaler group (30_encoding.md R89). -/
inductive Channel where
  | voltage
  | current
deriving DecidableEq, Repr

/-- The nominal of a channel (30_encoding.md R89). -/
def State.nominal (s : State) : Channel → Word
  | .voltage => s.calV
  | .current => s.calI

/-- RX_LEN as a number, the length L of the inbound frame (10_state.md R34). -/
def State.frameLen (s : State) : Nat :=
  s.rxLen.toNat

/-- The first `n` bytes of RXBUF, `RX[0 .. n)` (10_state.md R46). -/
def State.rxBytes (s : State) (n : Nat) : List Byte :=
  s.memReadList .rx 0 n

/-- `PAY[0 .. PAY_LEN)` (10_state.md R44). -/
def State.payload (s : State) : List Byte :=
  s.memReadList .pay 0 s.payLen.toNat

/-- `TX[0 .. n)` (10_state.md R45). -/
def State.txBytes (s : State) (n : Nat) : List Byte :=
  s.memReadList .tx 0 n

end Sys2Proof.Machine
end

