-- ==== Sys2Proof/Machine/Flags.lean ====
section
/-! DEFINITION. The words of the status registers and DEC's writes of them (10_state.md R25, R26, R47). -/

namespace Sys2Proof.Machine

/-- STATUS as the host reads it: `{0x00, CAL_LOCK, RX_ACK, RX_VALID, STICKY, ERR}` (10_state.md R25). -/
def Status.word (t : Status) : Half :=
  0#8 ++ BitVec.ofBool t.calLock ++ BitVec.ofBool t.rxAck ++ BitVec.ofBool t.rxValid ++ BitVec.ofBool t.sticky ++ t.err

/-- FAULT as the host reads it: `{CODE, 0x0, KIND}` (10_state.md R26). -/
def FaultReg.word (f : FaultReg) : Half :=
  f.code ++ 0#4 ++ f.kind

/-- FAULT = 0x0000: no device fault (10_state.md R26). -/
def FaultReg.clear : FaultReg :=
  { kind := 0#4, code := 0#8 }

/-- `FAULT <- (e << 8) | k`: the fault's kind and the frame's byte 3 (41_frame_codec.md R125, R127). -/
def FaultReg.record (f : DeviceFault) (e : Byte) : FaultReg :=
  { kind := f.kind, code := e }

/-- RX_VALID becomes 1 and RX_ACK becomes the acknowledgement test (41_frame_codec.md R125, R129). -/
def State.markFrameValid (s : State) (ack : Bool) : State :=
  { s with status := { s.status with rxValid := true, rxAck := ack } }

end Sys2Proof.Machine
end

