-- ==== Sys2Proof/Machine/Checksum.lean ====
section
/-! DEFINITION. The checksum unit: `sum16`, CSCLR and CSADD (40_checksum.md). -/

namespace Sys2Proof.Machine

/-- `sum16(B)`: the sum of all byte values modulo 2^16 (40_checksum.md R110). -/
def sum16 : List Byte → Half
  | [] => 0#16
  | b :: bs => b.setWidth 16 + sum16 bs

/-- CSCLR (40_checksum.md R112). -/
def execCsclr (s : State) : Host.Outcome State Fault Refusal :=
  .next (s.setCsacc 0#16).done

/-- CSADD (40_checksum.md R113). -/
def execCsadd (s : State) : Host.Outcome State Fault Refusal :=
  .next (s.setCsacc (s.csacc + s.csIn.setWidth 16)).done

end Sys2Proof.Machine
end

