-- ==== Sys2Proof/Machine/Codec.lean ====
section
/-! DEFINITION. The frame codec: ENC.Q, ENC.S, DEC and the status classification (41_frame_codec.md). -/

namespace Sys2Proof.Machine

/-- The start delimiter: `0x30 + type + (n > 0 ? n - 1 : 0)` (30_encoding.md R81). -/
def startDelimiter (k : RequestKind) (n : Nat) : Byte :=
  sdBase + k.typeCode + (if 0 < n then BitVec.ofNat 8 (n - 1) else 0#8)

/-- The encoder's writes for PAY_LEN = n ≤ 16, in the order of 41_frame_codec.md R121: header and payload, the checksum
read back over them, the checksum's bytes, TX_LEN and TX_CS. -/
def State.buildTelegram (s : State) (k : RequestKind) : State :=
  let n := s.payLen.toNat
  let s1 := s.memWriteList .tx 0 ([startDelimiter k n, s.txNode, s.txObj] ++ s.payload)
  let cs := sum16 (s1.txBytes (headerLen + n))
  let s2 := s1.memWriteList .tx (headerLen + n) [hiByte cs, loByte cs]
  s2.setTxResult (BitVec.ofNat 5 (n + minFrame)) cs

/-- ENC for either request kind (41_frame_codec.md R121). -/
def encodeTelegram (k : RequestKind) (s : State) : Host.Outcome State Fault Refusal :=
  if maxPayload < s.payLen.toNat then
    .next ((s.setTxResult 0#5 0#16).raise .encLength)
  else
    .next (s.buildTelegram k).done

/-- ENC.Q (41_frame_codec.md R121, type 0x40; the kind comes from the instruction, log 14). -/
def execEncQ (s : State) : Host.Outcome State Fault Refusal :=
  encodeTelegram .query s

/-- ENC.S (41_frame_codec.md R121, type 0xC0). -/
def execEncS (s : State) : Host.Outcome State Fault Refusal :=
  encodeTelegram .send s

/-- The fault that a nonzero device code names (41_frame_codec.md R126, 60_exceptions.md R195). -/
def deviceFaultOf (e : Byte) : DeviceFault :=
  if e = 0x03#8 then .checksumIncorrect
  else if e = 0x04#8 then .startDelimiterIncorrect
  else if e = 0x05#8 then .wrongOutputAddress
  else if e = 0x07#8 then .objectNotDefined
  else if e = 0x08#8 then .objectLengthIncorrect
  else if e = 0x09#8 then .accessDenied
  else if e = 0x0F#8 then .deviceLocked
  else if e = 0x30#8 then .upperLimitExceeded
  else if e = 0x31#8 then .lowerLimitExceeded
  else .unknownFault

/-- `classify(s, e)` of frame bytes 2 and 3 (41_frame_codec.md R126); none is its 0. -/
def classify (s e : Byte) : Option DeviceFault :=
  if s ≠ 0xFF#8 then none
  else if e = 0x00#8 then none
  else some (deviceFaultOf e)

/-- The acknowledgement test: bytes 2 and 3 are (0xFF, 0x00) (41_frame_codec.md R129). -/
def isAck (s e : Byte) : Bool :=
  s == 0xFF#8 && e == 0x00#8

/-- DEC's first writes, before any check (41_frame_codec.md R125). -/
def State.clearDecResults (s : State) : State :=
  (s.clearRxFlags.setFault FaultReg.clear).setRxPlen 0#8

/-- DEC after the checksum has matched: the frame is valid and its bytes 2 and 3 are classified (41_frame_codec.md R125,
R127, R128). -/
def State.classifyFrame (s : State) : State :=
  let st := s.memRead .rx 2
  let e := s.memRead .rx 3
  let s1 := (s.markFrameValid (isAck st e)).setRxPlen (BitVec.ofNat 8 (s.frameLen - minFrame))
  match classify st e with
  | some f => (s1.setFault (FaultReg.record f e)).raise .deviceFault
  | none => s1.done

/-- DEC (41_frame_codec.md R125; the order of its checks is 60_exceptions.md R200). -/
def execDec (s : State) : Host.Outcome State Fault Refusal :=
  let len := s.frameLen
  let s0 := s.clearDecResults
  if s.params.rxCap < len then
    .next ((s0.setSums 0#16 0#16).raise .overrun)
  else if len < minFrame then
    .next ((s0.setSums 0#16 0#16).raise .truncated)
  else
    let computed := sum16 (s.rxBytes (len - trailerLen))
    let received := be16 (s.memRead .rx (len - 2)) (s.memRead .rx (len - 1))
    let s1 := s0.setSums computed received
    if computed ≠ received then
      .next (s1.raise .checksumMismatch)
    else
      .next s1.classifyFrame

end Sys2Proof.Machine
end

