-- ==== Sys2Proof/Machine/Control.lean ====
section
/-! DEFINITION. Control commands (44_control.md) and the command words without an assigned code. -/

namespace Sys2Proof.Machine

/-- NOP (44_control.md R180). -/
def execNop (s : State) : Host.Outcome State Fault Refusal :=
  .next s.done

/-- CLRERR (44_control.md R181). -/
def execClrerr (s : State) : Host.Outcome State Fault Refusal :=
  .next s.clearSticky.done

/-- An unassigned command code (44_control.md R182): every one behaves the same way (30_encoding.md R88). -/
def execUnassigned (_code : Byte) (s : State) : Host.Outcome State Fault Refusal :=
  .next (s.raise .illegalCmd)

/-- A Query start delimiter written to CMD: one of the unassigned codes 0x70..0x7F (30_encoding.md R88, 44_control.md
R182; DEDUCED, log 7). -/
def execTgQuery (_len : BitVec 4) (s : State) : Host.Outcome State Fault Refusal :=
  .next (s.raise .illegalCmd)

/-- A Send start delimiter written to CMD: one of the unassigned codes 0xF0..0xFF (30_encoding.md R88, 44_control.md
R182; DEDUCED, log 7). -/
def execTgSend (_len : BitVec 4) (s : State) : Host.Outcome State Fault Refusal :=
  .next (s.raise .illegalCmd)

end Sys2Proof.Machine
end

