-- ==== Sys2Proof/Machine/Fields.lean ====
section
/-! DEFINITION. Payload field marshalling: UNPK16, PK16, F32BITS (42_fields.md). -/

namespace Sys2Proof.Machine

/-- UNPK16 (42_fields.md R150). -/
def execUnpk16 (s : State) : Host.Outcome State Fault Refusal :=
  let o := s.fldOff.toNat
  if s.params.rxCap < s.frameLen then
    .next (s.raise .overrun)
  else if s.frameLen ≤ o + 1 then
    .next (s.raise .fieldRange)
  else
    .next (s.setRaw16 (be16 (s.memRead .rx o) (s.memRead .rx (o + 1)))).done

/-- PK16 (42_fields.md R151). -/
def execPk16 (s : State) : Host.Outcome State Fault Refusal :=
  .next ((s.memWriteList .pay 0 [hiByte s.raw16, loByte s.raw16]).setPayLen 2#5).done

/-- F32BITS (42_fields.md R153). -/
def execF32bits (s : State) : Host.Outcome State Fault Refusal :=
  if s.params.rxCap < s.frameLen then
    .next (s.raise .overrun)
  else if s.frameLen ≠ 9 then
    .next (s.raise .fieldRange)
  else
    .next (s.setFldW32
      (reversed32 (s.memRead .rx 3) (s.memRead .rx 4) (s.memRead .rx 5) (s.memRead .rx 6))).done

end Sys2Proof.Machine
end

