-- ==== Sys2Proof/Machine/Scaler.lean ====
section
/-! DEFINITION. The scaler unit: `round_div`, SCUP.c, SCDN.c and CALLOCK (43_scaler.md). -/

namespace Sys2Proof.Machine

/-- `round_div(a, b)` for b ≥ 1: the integer nearest to a / b, exact halves by ROUND_TIES (43_scaler.md R161). For b ≥ 1,
`a / b` rounds toward −∞ and `q % 2` is the floor modulus (00_scope.md R9). -/
def roundDiv (ties : RoundTies) (a b : Int) : Int :=
  let q := a / b
  let r := a - q * b
  if 2 * r < b then q
  else if b < 2 * r then q + 1
  else
    match ties with
    | .even => if q % 2 = 0 then q else q + 1
    | .away => if 0 ≤ a then q + 1 else q

/-- `scale_up(P, N)`: physical to raw (43_scaler.md R162). -/
def scaleUp (ties : RoundTies) (p n : Int) : Int :=
  roundDiv ties (p * fullScale) n

/-- `scale_down(R, N)`: raw to physical (43_scaler.md R165). -/
def scaleDown (ties : RoundTies) (r n : Int) : Int :=
  roundDiv ties (n * r) fullScale

/-- SCUP for either channel (43_scaler.md R162, R164). The zero nominal, which R162 says cannot be while the lock is set,
is the fault `zeroNominal` (log 9). -/
def scaleUpChannel (ch : Channel) (s : State) : Host.Outcome State Fault Refusal :=
  if s.status.calLock = false then
    .next (s.raise .notCalibrated)
  else if s.nominal ch = 0#32 then
    .fault .zeroNominal
  else
    let r := scaleUp s.params.ties s.phys.toInt (s.nominal ch).toNat
    if r < -32768 ∨ 32767 < r then
      .next (s.raise .range)
    else
      .next (s.setRaw16 (truncTo 16 r)).done

/-- SCDN for either channel (43_scaler.md R164, R165). -/
def scaleDownChannel (ch : Channel) (s : State) : Host.Outcome State Fault Refusal :=
  if s.status.calLock = false then
    .next (s.raise .notCalibrated)
  else
    let p := scaleDown s.params.ties s.raw16.toNat (s.nominal ch).toNat
    if 2147483647 < p then
      .next (s.raise .range)
    else
      .next (s.setPhys (truncTo 32 p)).done

/-- SCUP.V (43_scaler.md R162). -/
def execScupV (s : State) : Host.Outcome State Fault Refusal :=
  scaleUpChannel .voltage s

/-- SCUP.I (43_scaler.md R162). -/
def execScupI (s : State) : Host.Outcome State Fault Refusal :=
  scaleUpChannel .current s

/-- SCDN.V (43_scaler.md R165). -/
def execScdnV (s : State) : Host.Outcome State Fault Refusal :=
  scaleDownChannel .voltage s

/-- SCDN.I (43_scaler.md R165). -/
def execScdnI (s : State) : Host.Outcome State Fault Refusal :=
  scaleDownChannel .current s

/-- CALLOCK (43_scaler.md R168). -/
def execCallock (s : State) : Host.Outcome State Fault Refusal :=
  if s.status.calLock = true then
    .next s.done
  else if s.calV = 0#32 ∨ s.calI = 0#32 then
    .next (s.raise .calInvalid)
  else
    .next s.lockCalibration.done

end Sys2Proof.Machine
end

