-- ==== Sys2Proof/Machine/Dispatch.lean ====
section
/-! DEFINITION. One arm per instruction, each one direct call of its meaning. -/

namespace Sys2Proof.Machine

def exec (i : Instr) (s : State) : Host.Outcome State Fault Refusal :=
  match i with
  | .nop => Sys2Proof.Machine.execNop s
  | .clrerr => Sys2Proof.Machine.execClrerr s
  | .csclr => Sys2Proof.Machine.execCsclr s
  | .csadd => Sys2Proof.Machine.execCsadd s
  | .encQ => Sys2Proof.Machine.execEncQ s
  | .encS => Sys2Proof.Machine.execEncS s
  | .dec => Sys2Proof.Machine.execDec s
  | .unpk16 => Sys2Proof.Machine.execUnpk16 s
  | .pk16 => Sys2Proof.Machine.execPk16 s
  | .f32bits => Sys2Proof.Machine.execF32bits s
  | .scupV => Sys2Proof.Machine.execScupV s
  | .scupI => Sys2Proof.Machine.execScupI s
  | .scdnV => Sys2Proof.Machine.execScdnV s
  | .scdnI => Sys2Proof.Machine.execScdnI s
  | .callock => Sys2Proof.Machine.execCallock s
  | .unassigned code => Sys2Proof.Machine.execUnassigned code s
  | .tgQuery len => Sys2Proof.Machine.execTgQuery len s
  | .tgSend len => Sys2Proof.Machine.execTgSend len s

end Sys2Proof.Machine
end

