-- ==== Sys2Proof/Machine/HostAccess.lean ====
section
/-! DEFINITION. The host's register and buffer accesses, without the command that a CMD write runs (20_memory.md R60 to
R62, R68). -/

namespace Sys2Proof.Machine

/-- The value of a register, zero-extended, reserved fields as 0 (20_memory.md R61). -/
def State.readReg (s : State) : Reg → Word
  | .cmd => s.cmd.setWidth 32
  | .status => s.status.word.setWidth 32
  | .fault => s.fault.word.setWidth 32
  | .csacc => s.csacc.setWidth 32
  | .csIn => s.csIn.setWidth 32
  | .txNode => s.txNode.setWidth 32
  | .txObj => s.txObj.setWidth 32
  | .payLen => s.payLen.setWidth 32
  | .txLen => s.txLen.setWidth 32
  | .txCs => s.txCs.setWidth 32
  | .rxLen => s.rxLen.setWidth 32
  | .rxPlen => s.rxPlen.setWidth 32
  | .rxCscalc => s.rxCscalc.setWidth 32
  | .rxCsrecv => s.rxCsrecv.setWidth 32
  | .fldOff => s.fldOff.setWidth 32
  | .raw16 => s.raw16.setWidth 32
  | .fldW32 => s.fldW32
  | .phys => s.phys
  | .calV => s.calV
  | .calI => s.calI

/-- What a host write stores: `trunc_N(v)` in a writable register, nothing in a read-only one, nothing in CAL_V or CAL_I
while they are locked; a write to RX_LEN clears RX_VALID and RX_ACK (20_memory.md R61, R68, 10_state.md R42). -/
def State.storeReg (s : State) (r : Reg) (v : Int) : State :=
  match r with
  | .cmd => { s with cmd := truncTo 8 v }
  | .status => s
  | .fault => s
  | .csacc => { s with csacc := truncTo 16 v }
  | .csIn => { s with csIn := truncTo 8 v }
  | .txNode => { s with txNode := truncTo 8 v }
  | .txObj => { s with txObj := truncTo 8 v }
  | .payLen => { s with payLen := truncTo 5 v }
  | .txLen => s
  | .txCs => s
  | .rxLen => State.clearRxFlags { s with rxLen := truncTo 8 v }
  | .rxPlen => s
  | .rxCscalc => s
  | .rxCsrecv => s
  | .fldOff => { s with fldOff := truncTo 8 v }
  | .raw16 => { s with raw16 := truncTo 16 v }
  | .fldW32 => s
  | .phys => { s with phys := truncTo 32 v }
  | .calV => if s.status.calLock = true then s else { s with calV := truncTo 32 v }
  | .calI => if s.status.calLock = true then s else { s with calI := truncTo 32 v }

/-- `RegRead(i)`: 0 at an unmapped index (20_memory.md R61, R62). -/
def State.regRead (s : State) (i : BitVec 8) : Word :=
  match Reg.ofIndex i with
  | some r => s.readReg r
  | none => 0#32

/-- The store of `RegWrite(i, v)`: nothing at an unmapped index (20_memory.md R61, R62). -/
def State.regStore (s : State) (i : BitVec 8) (v : Int) : State :=
  match Reg.ofIndex i with
  | some r => s.storeReg r v
  | none => s

/-- `BufRead(S, i)`: 0 outside the space's index range (20_memory.md R61, R62). -/
def State.bufRead (s : State) (space : BufSpace) (i : Nat) : Byte :=
  if i < s.bufSize space then s.memRead space i else 0#8

/-- `BufWrite(S, i, v)`: ignored outside the index range and in TXBUF; in RXBUF it clears RX_VALID and RX_ACK
(20_memory.md R61, R62, R68). -/
def State.bufWrite (s : State) (space : BufSpace) (i : Nat) (v : Int) : State :=
  if i < s.bufSize space then
    match space with
    | .pay => s.memWrite .pay i (truncTo 8 v)
    | .tx => s
    | .rx => (s.memWrite .rx i (truncTo 8 v)).clearRxFlags
  else s

/-- Handing a value to the host (log 11). -/
def State.reply (s : State) (v : Word) : State :=
  { s with replies := v :: s.replies }

end Sys2Proof.Machine
end

