-- ==== Sys2Proof/Machine/Transact.lean ====
section
/-! DEFINITION. One host transaction as one step, and the command that a CMD write runs (20_memory.md R60, R66,
30_encoding.md R85). -/

namespace Sys2Proof.Machine

/-- Running the command that CMD selects (30_encoding.md R85). -/
def runCommand (s : State) : Host.Outcome State Fault Refusal :=
  exec (decodeByte s.cmd) s

/-- One transaction. A write to CMD stores the code and then runs it, even when the code is the one already held
(10_state.md R24, 20_memory.md R68). -/
def perform (op : HostOp) (s : State) : Host.Outcome State Fault Refusal :=
  match op with
  | .regRead i => .next (s.reply (s.regRead i))
  | .regWrite i v =>
    if i = Reg.cmd.index then runCommand (s.regStore i v) else .next (s.regStore i v)
  | .bufRead space i => .next (s.reply ((s.bufRead space i).setWidth 32))
  | .bufWrite space i v => .next (s.bufWrite space i v)
  | .reset => .next s.hardReset

/-- The instance is this agent's: no agent or this one has used it (60_exceptions.md R212). -/
def State.ownedBy (s : State) (agent : Nat) : Bool :=
  match s.owner with
  | none => true
  | some a => a == agent

/-- Recording the agent that uses the instance (log 8). -/
def State.claim (s : State) (agent : Nat) : State :=
  { s with owner := some agent }

/-- One transaction of one agent; a second agent's is refused (60_exceptions.md R212). -/
def transact (t : Transaction) (s : State) : Host.Outcome State Fault Refusal :=
  if s.ownedBy t.agent then perform t.op (s.claim t.agent) else .refused .secondHost

/-- The oldest pending transaction happens; with none, the block does nothing (70_reset_and_hazards.md R222, log 2). -/
def nextTransaction (s : State) : Host.Outcome State Fault Refusal :=
  match s.pending with
  | [] => .next s
  | t :: rest => transact t { s with pending := rest }

/-- The host's next transaction writes the command word `w` of `nbits` bits to CMD, as the agent that uses the instance
(logs 1 and 8). -/
def State.queueCommand (s : State) (nbits w : Nat) : State :=
  { s with
    pending := { agent := s.owner.getD 0, op := .regWrite Reg.cmd.index ((w % 2 ^ nbits : Nat) : Int) } :: s.pending }

end Sys2Proof.Machine
end

