-- ==== Sys2Proof/Machine/Step.lean ====
section
/-! DEFINITION. The step: one host transaction (20_memory.md R66). -/

namespace Sys2Proof.Machine

/-- One step of the machine. -/
def step (s : State) : Host.Outcome State Fault Refusal :=
  nextTransaction s

/-- The state whose very next step runs the command word `w`. -/
def State.withFetchWord (s : State) (nbits w : Nat) : State :=
  s.queueCommand nbits w

end Sys2Proof.Machine
end

