-- ==== Sys2Proof/Machine/HostProgram.lean ====
section
/-! DEFINITION. The host's side, as data and functions beside the machine (the step uses none of it, log 17): the transaction
notation and pseudo-instructions (30_encoding.md R94, R95), loading a response (70_reset_and_hazards.md R226), the object
table and control masks (30_encoding.md R92, R93), the payload views (41_frame_codec.md R130) and the start delimiter as a
reader classifies it (30_encoding.md R91). -/

namespace Sys2Proof.Machine

/-- `wr NAME, v` (30_encoding.md R94). -/
def hostWr (r : Reg) (v : Int) : HostOp :=
  .regWrite r.index v

/-- `rd NAME` (30_encoding.md R94). -/
def hostRd (r : Reg) : HostOp :=
  .regRead r.index

/-- `wrb S[i], v` (30_encoding.md R94). -/
def hostWrb (space : BufSpace) (i : Nat) (v : Int) : HostOp :=
  .bufWrite space i v

/-- `rdb S[i]` (30_encoding.md R94). -/
def hostRdb (space : BufSpace) (i : Nat) : HostOp :=
  .bufRead space i

/-- `cmd MNEMONIC` (30_encoding.md R94): the code of 30_encoding.md R87. -/
def hostCmd (i : Instr) : HostOp :=
  hostWr .cmd ((encode i).headD 0#8).toNat

/-- `wrb S[i], b0`, `wrb S[i+1], b1`, … -/
def hostWrbList (space : BufSpace) (i : Nat) : List Byte → List HostOp
  | [] => []
  | b :: bs => hostWrb space i b.toNat :: hostWrbList space (i + 1) bs

/-- `ldpay b0, …` (30_encoding.md R95). -/
def hostLdpay (bs : List Byte) : List HostOp :=
  hostWrbList .pay 0 bs ++ [hostWr .payLen bs.length]

/-- `ldrx b0, …` (30_encoding.md R95). -/
def hostLdrx (bs : List Byte) : List HostOp :=
  hostWrbList .rx 0 bs ++ [hostWr .rxLen bs.length]

/-- `enc.q node, obj` (30_encoding.md R95). -/
def hostEncQ (node obj : Byte) : List HostOp :=
  [hostWr .txNode node.toNat, hostWr .txObj obj.toNat, hostCmd .encQ]

/-- `enc.s node, obj` (30_encoding.md R95). -/
def hostEncS (node obj : Byte) : List HostOp :=
  [hostWr .txNode node.toNat, hostWr .txObj obj.toNat, hostCmd .encS]

/-- `csum b0, …` (30_encoding.md R95). -/
def hostCsum (bs : List Byte) : List HostOp :=
  hostCmd .csclr :: bs.flatMap (fun b => [hostWr .csIn b.toNat, hostCmd .csadd])

/-- `unpk16 off` (30_encoding.md R95). -/
def hostUnpk16 (off : Byte) : List HostOp :=
  [hostWr .fldOff off.toNat, hostCmd .unpk16]

/-- Step 4 of an exchange: min(k, RX_CAP) of the k bytes read are stored and RX_LEN becomes min(k, 255)
(70_reset_and_hazards.md R226). -/
def hostLoadResponse (rxCap : Nat) (bs : List Byte) : List HostOp :=
  hostWrbList .rx 0 (bs.take rxCap) ++ [hostWr .rxLen (min bs.length 255 : Nat)]

/-- The transactions of one agent, as the pending list of a state. -/
def hostProgram (agent : Nat) (ops : List HostOp) : List Transaction :=
  ops.map (fun op => { agent := agent, op := op })

/-- The value types of the object table (30_encoding.md R92). -/
inductive ObjectType where
  | string
  | float
  | scaledInt
  | bitfield
deriving DecidableEq, Repr

/-- One row of the object table: whether the host also sets the object, with a Send of two bytes (30_encoding.md R92). -/
structure ObjectRow where
  obj : Byte
  attr : String
  type : ObjectType
  settable : Bool
deriving DecidableEq, Repr

/-- The device's fixed object table (30_encoding.md R92). The engine gives no object any meaning. -/
def objectTable : List ObjectRow :=
  [⟨0#8, "device type", .string, false⟩,
   ⟨1#8, "serial", .string, false⟩,
   ⟨2#8, "nominal voltage", .float, false⟩,
   ⟨3#8, "nominal current", .float, false⟩,
   ⟨4#8, "nominal power", .float, false⟩,
   ⟨6#8, "article", .string, false⟩,
   ⟨8#8, "manufacturer", .string, false⟩,
   ⟨9#8, "firmware version", .string, false⟩,
   ⟨38#8, "OVP threshold", .scaledInt, true⟩,
   ⟨39#8, "OCP threshold", .scaledInt, true⟩,
   ⟨50#8, "voltage setpoint", .scaledInt, true⟩,
   ⟨51#8, "current setpoint", .scaledInt, true⟩,
   ⟨54#8, "control bitfield", .bitfield, true⟩,
   ⟨71#8, "actual-value bitfield", .bitfield, false⟩]

/-- The channel whose nominal scales an object (30_encoding.md R92; OVP with CAL_V and OCP with CAL_I by the kind of
quantity, 91_not_in_source.md N6). -/
def objectChannel (obj : Byte) : Option Channel :=
  if obj = 38#8 ∨ obj = 50#8 then some .voltage
  else if obj = 39#8 ∨ obj = 51#8 then some .current
  else none

/-- The control object, 54 (30_encoding.md R93). -/
def controlObject : Byte := 0x36#8

/-- The `remote` mask (30_encoding.md R93). -/
def remoteMask : Byte := 0x10#8

/-- The `output` mask (30_encoding.md R93). -/
def outputMask : Byte := 0x01#8

/-- The payload of a control set: `[mask, data]`, data the mask for true and 0 for false (30_encoding.md R93). -/
def controlPayload (mask : Byte) (on : Bool) : List Byte :=
  [mask, if on then mask else 0x00#8]

/-- Setting a control bit: ldpay, then ENC.S to object 54 of node 0 (30_encoding.md R93, 70_reset_and_hazards.md R223,
R225, R229). -/
def hostSetControl (mask : Byte) (on : Bool) : List HostOp :=
  hostLdpay (controlPayload mask on) ++ hostEncS 0x00#8 controlObject

/-- The calibration steps 4 and 5 of the boot order (70_reset_and_hazards.md R223). -/
def hostCalibrate (nomV nomI : Word) : List HostOp :=
  [hostWr .calV nomV.toNat, hostWr .calI nomI.toNat, hostCmd .callock]

/-- The binary view of a valid frame: `RX[3 .. L-2)`, of length RX_PLEN (41_frame_codec.md R130). -/
def State.binaryView (s : State) : List Byte :=
  s.memReadList .rx 3 s.rxPlen.toNat

/-- The string view: one trailing byte less, empty for L = 5 (41_frame_codec.md R130, 92_eei_decisions.md D33). -/
def State.stringView (s : State) : List Byte :=
  s.memReadList .rx 3 (s.rxPlen.toNat - 1)

/-- The request kind that a frame's byte 0 shows, and its L field; none where the byte is no request's start delimiter
(30_encoding.md R91). The engine never does this (R84). -/
def classifyDelimiter (c : Byte) : Option (RequestKind × BitVec 4) :=
  if c.extractLsb' 4 4 = 0x7#4 then some (.query, c.extractLsb' 0 4)
  else if c.extractLsb' 4 4 = 0xF#4 then some (.send, c.extractLsb' 0 4)
  else none

end Sys2Proof.Machine
end

