-- ==== Sys2Proof/Safety.lean ====
section
/-! DEFINITION. What the statements speak of: what a step leaves unchanged, and the invariants of the machine. -/

namespace Sys2Proof.Machine

/-- Every byte of the three buffers reads the same. -/
def BuffersSame (s t : State) : Prop :=
  ∀ space a, t.memRead space a = s.memRead space a

/-- Every byte reads the same but those of one space at the `n` indices from `i` on. -/
def BuffersSameBut (space : BufSpace) (i n : Nat) (s t : State) : Prop :=
  ∀ sp a, ¬(sp = space ∧ i ≤ a ∧ a < i + n) → t.memRead sp a = s.memRead sp a

/-- The command ended in `done` and left every other STATUS field as it was (00_scope.md R10). -/
def StatusDone (s t : State) : Prop :=
  t.status = { s.status with err := 0#4 }

/-- The command ended in `raise` with error code `e` and left every other STATUS field as it was (00_scope.md R10). -/
def StatusRaised (e : BitVec 4) (s t : State) : Prop :=
  t.status = { s.status with err := e, sticky := true }

/-- The sum of the byte values, unbounded (40_checksum.md R110, before the modulus). -/
def byteSum (bs : List Byte) : Nat :=
  (bs.map BitVec.toNat).sum

/-- `H` of 41_frame_codec.md R120: start delimiter, node, object and payload. -/
def frameHead (type : Nat) (node obj : Byte) (payload : List Byte) : List Byte :=
  [BitVec.ofNat 8 (0x30 + type + (if 0 < payload.length then payload.length - 1 else 0)), node, obj] ++ payload

/-- `frame(type, node, obj, P)` of 41_frame_codec.md R120: `H` and its checksum, high byte first. -/
def frameOf (type : Nat) (node obj : Byte) (payload : List Byte) : List Byte :=
  let h := frameHead type node obj payload
  let cs := byteSum h % 65536
  h ++ [BitVec.ofNat 8 (cs / 256), BitVec.ofNat 8 (cs % 256)]

/-- The kind number of frame bytes 2 and 3, as the table of 41_frame_codec.md R126 writes it. -/
def kindNumber (s e : Nat) : Nat :=
  if s ≠ 0xFF then 0
  else if e = 0x00 then 0
  else if e = 0x03 then 1
  else if e = 0x04 then 2
  else if e = 0x05 then 3
  else if e = 0x07 then 4
  else if e = 0x08 then 5
  else if e = 0x09 then 6
  else if e = 0x0F then 7
  else if e = 0x30 then 8
  else if e = 0x31 then 9
  else 10

/-- The error codes each command may leave in STATUS.ERR (60_exceptions.md R190, 10_state.md R47). -/
def allowedErr : Instr → List (BitVec 4)
  | .nop => [0#4]
  | .clrerr => [0#4]
  | .csclr => [0#4]
  | .csadd => [0#4]
  | .encQ => [0#4, 2#4]
  | .encS => [0#4, 2#4]
  | .dec => [0#4, 3#4, 4#4, 5#4, 6#4]
  | .unpk16 => [0#4, 3#4, 7#4]
  | .pk16 => [0#4]
  | .f32bits => [0#4, 3#4, 7#4]
  | .scupV => [0#4, 8#4, 10#4]
  | .scupI => [0#4, 8#4, 10#4]
  | .scdnV => [0#4, 8#4, 10#4]
  | .scdnI => [0#4, 8#4, 10#4]
  | .callock => [0#4, 9#4]
  | .unassigned _ => [1#4]
  | .tgQuery _ => [1#4]
  | .tgSend _ => [1#4]

/-- A Boolean as a bit of weight 1. -/
def bit (b : Bool) : Nat :=
  if b then 1 else 0

/-- Every mapped register index with the number that a host read of it gives (10_state.md R23, R25, R26). -/
def State.registerRows (s : State) : List (BitVec 8 × Nat) :=
  [(0x00#8, s.cmd.toNat),
   (0x01#8, s.status.err.toNat + 16 * bit s.status.sticky + 32 * bit s.status.rxValid + 64 * bit s.status.rxAck
      + 128 * bit s.status.calLock),
   (0x02#8, s.fault.kind.toNat + 256 * s.fault.code.toNat),
   (0x03#8, s.csacc.toNat), (0x04#8, s.csIn.toNat), (0x05#8, s.txNode.toNat), (0x06#8, s.txObj.toNat),
   (0x07#8, s.payLen.toNat), (0x08#8, s.txLen.toNat), (0x09#8, s.txCs.toNat), (0x0A#8, s.rxLen.toNat),
   (0x0B#8, s.rxPlen.toNat), (0x0C#8, s.rxCscalc.toNat), (0x0D#8, s.rxCsrecv.toNat), (0x0E#8, s.fldOff.toNat),
   (0x0F#8, s.raw16.toNat), (0x10#8, s.fldW32.toNat), (0x11#8, s.phys.toNat), (0x12#8, s.calV.toNat),
   (0x13#8, s.calI.toNat)]

/-- The registers that a host write always stores into, CMD apart, with their widths (10_state.md R23). -/
def writableRegisters : List (BitVec 8 × Nat) :=
  [(0x03#8, 16), (0x04#8, 8), (0x05#8, 8), (0x06#8, 8), (0x07#8, 5), (0x0A#8, 8), (0x0E#8, 8), (0x0F#8, 16), (0x11#8, 32)]

/-- The registers whose host writes are ignored (20_memory.md R61). -/
def readOnlyRegisters : List (BitVec 8) :=
  [0x01#8, 0x02#8, 0x08#8, 0x09#8, 0x0B#8, 0x0C#8, 0x0D#8, 0x10#8]

/-- The host's next transaction is `op`, by the instance's agent `a`, and `rest` comes after it. -/
def State.Next (s : State) (a : Nat) (op : HostOp) (rest : List Transaction) : Prop :=
  s.pending = { agent := a, op := op } :: rest ∧ s.ownedBy a = true

/-- A function applied to the next state of an outcome. -/
def mapNext (f : State → State) (o : Host.Outcome State Fault Refusal) : Host.Outcome State Fault Refusal :=
  match o with
  | .next s => .next (f s)
  | .fault r => .fault r
  | .refused r => .refused r

/-- The same state with another value of CSACC. -/
def State.withCsacc (x : Half) (s : State) : State :=
  { s with csacc := x }

/-- The same state with other informative units (00_scope.md R7). -/
def State.withUnits (u v : PhysUnit) (s : State) : State :=
  { s with params := { s.params with unitV := u, unitI := v } }

/-- The canonical form of the three buffers. -/
def State.memoryWf (s : State) : Bool :=
  Memory.wf maxPayload s.pay && Memory.wf txMax s.tx && Memory.wf s.params.rxCap s.rx

/-- The legal values of STATUS.ERR, FAULT.KIND and FAULT.CODE, and RX_ACK only beside RX_VALID (10_state.md R25, R26). -/
def State.StatusLegal (s : State) : Prop :=
  s.status.err.toNat ≤ 10 ∧ s.fault.kind.toNat ≤ 10 ∧ (s.fault.kind = 0#4 ↔ s.fault.code = 0#8) ∧
    (s.status.rxAck = true → s.status.rxValid = true)

/-- A set lock stands for two nonzero nominals (43_scaler.md R162, R168). -/
def State.CalibrationSound (s : State) : Prop :=
  s.status.calLock = true → s.calV ≠ 0#32 ∧ s.calI ≠ 0#32

/-- TX_LEN = 0 and TX_CS = 0, or TXBUF holds a whole telegram of TX_LEN bytes: its start delimiter is a request's for
its payload length, and its last two bytes are TX_CS, the sum of all bytes before them (10_state.md R32, R33,
41_frame_codec.md R122, 30_encoding.md R81, R83). -/
def State.TelegramSound (s : State) : Prop :=
  (s.txLen = 0#5 ∧ s.txCs = 0#16) ∨
    (5 ≤ s.txLen.toNat ∧ s.txLen.toNat ≤ 21 ∧
      (∃ k, s.memRead .tx 0 = startDelimiter k (s.txLen.toNat - 5)) ∧
      s.memRead .tx (s.txLen.toNat - 2) = hiByte s.txCs ∧
      s.memRead .tx (s.txLen.toNat - 1) = loByte s.txCs ∧
      s.txCs = sum16 (s.txBytes (s.txLen.toNat - 2)))

/-- RX_VALID vouches for the bytes that RXBUF holds now: they are a frame of legal length whose checksum is right, and
RX_PLEN, RX_CSCALC, RX_CSRECV, RX_ACK and FAULT are that frame's (10_state.md R25, R26, R35 to R37, 41_frame_codec.md R129;
92_eei_decisions.md D14: "RX_VALID must never vouch for bytes the decoder did not check"). -/
def State.FrameVouched (s : State) : Prop :=
  s.status.rxValid = true →
    5 ≤ s.frameLen ∧ s.frameLen ≤ s.params.rxCap ∧
    s.rxPlen.toNat = s.frameLen - 5 ∧
    s.rxCscalc = sum16 (s.rxBytes (s.frameLen - 2)) ∧
    s.rxCsrecv = be16 (s.memRead .rx (s.frameLen - 2)) (s.memRead .rx (s.frameLen - 1)) ∧
    s.rxCscalc = s.rxCsrecv ∧
    (s.status.rxAck = true ↔ s.memRead .rx 2 = 0xFF#8 ∧ s.memRead .rx 3 = 0x00#8) ∧
    s.fault =
      match classify (s.memRead .rx 2) (s.memRead .rx 3) with
      | some f => { kind := f.kind, code := s.memRead .rx 3 }
      | none => { kind := 0#4, code := 0#8 }

/-- The next state of an outcome, if it has one. -/
def nextOf (o : Host.Outcome State Fault Refusal) : Option State :=
  match o with
  | .next s => some s
  | .fault _ => none
  | .refused _ => none

/-- Adding bytes one at a time: each goes to CS_IN, then CSADD runs (40_checksum.md R113). -/
def feedChecksum : List Byte → State → Option State
  | [], s => some s
  | b :: bs, s => (nextOf (exec .csadd { s with csIn := b })).bind (feedChecksum bs)

end Sys2Proof.Machine
end

