-- ==== Sys2Proof/Certificates/Slice0/Obligations.lean ====
section
/-! DEFINITION. The statements for the provers. A command's frame is written `t = { s with … }` with the fields the rule
lets it write, and once more through the read of one byte (`BuffersSame`, `BuffersSameBut`). -/

open Sys2Proof Sys2Proof.Machine

/-! ## Encoding -/

/-- Decoding and encoding agree on every well-formed instruction and on every command word (30_encoding.md R86 to R91;
that the start-delimiter rows are instructions is the model's reading, log 7). -/
def Obligations.DecodeEncodeAgree : Prop :=
  (∀ i : Instr, i.wellFormed = true → decode (encode i) = .ok i) ∧
  (∀ c : Byte, decode [c] = .ok (decodeByte c) ∧ (decodeByte c).wellFormed = true ∧ encode (decodeByte c) = [c])

/-- The words of the opcode map decode to their rows (30_encoding.md R87), and every other code to none of the 15 commands
(R88). Two clauses are the model's reading: that no byte and more than one byte are refused by name, `noByte` and `tooLong`
(DEDUCED from R90, log 13), and that some of the other codes decode to the start-delimiter rows (DEDUCED, log 7). -/
def Obligations.OpcodeMapDecodes : Prop :=
  decode [0x00#8] = .ok .nop ∧ decode [0x01#8] = .ok .clrerr ∧ decode [0x10#8] = .ok .csclr ∧
  decode [0x11#8] = .ok .csadd ∧ decode [0x20#8] = .ok .encQ ∧ decode [0x21#8] = .ok .encS ∧
  decode [0x30#8] = .ok .dec ∧ decode [0x40#8] = .ok .unpk16 ∧ decode [0x41#8] = .ok .pk16 ∧
  decode [0x42#8] = .ok .f32bits ∧ decode [0x50#8] = .ok .scupV ∧ decode [0x51#8] = .ok .scupI ∧
  decode [0x52#8] = .ok .scdnV ∧ decode [0x53#8] = .ok .scdnI ∧ decode [0x60#8] = .ok .callock ∧
  decode [] = .error .noByte ∧ (∀ b c : Byte, ∀ r, decode (b :: c :: r) = .error .tooLong) ∧
  ∀ c : Byte, c ∉ [0x00#8, 0x01#8, 0x10#8, 0x11#8, 0x20#8, 0x21#8, 0x30#8, 0x40#8, 0x41#8, 0x42#8, 0x50#8, 0x51#8, 0x52#8,
      0x53#8, 0x60#8] →
    decodeByte c = .unassigned c ∨ (∃ l, decodeByte c = .tgQuery l) ∨ (∃ l, decodeByte c = .tgSend l)

/-! ## Control -/

/-- NOP, as a command and as a CMD write of 0 (44_control.md R180). -/
def Obligations.NopOnlyClearsErr : Prop :=
  decodeByte 0x00#8 = .nop ∧
  ∀ s : State,
    (∃ t, exec .nop s = .next t ∧ StatusDone s t ∧ t = { s with status := t.status } ∧ BuffersSame s t) ∧
    perform (.regWrite 0x00#8 0) s = .next { s with cmd := 0#8, status := { s.status with err := 0#4 } }

/-- CLRERR clears ERR and STICKY; no other command clears STICKY, and Reset does (44_control.md R181). -/
def Obligations.ClrerrAloneClearsSticky : Prop :=
  decodeByte 0x01#8 = .clrerr ∧
  (∀ s : State, ∃ t, exec .clrerr s = .next t ∧ t.status = { s.status with err := 0#4, sticky := false } ∧
    t = { s with status := t.status } ∧ BuffersSame s t) ∧
  (∀ (i : Instr) (s t : State), i ≠ .clrerr → exec i s = .next t → s.status.sticky = true → t.status.sticky = true) ∧
  (∀ s t : State, perform .reset s = .next t → t.status.sticky = false)

/-- An unassigned code raises ILLEGAL_CMD, changes STATUS alone, and CMD keeps the written value (44_control.md R182). -/
def Obligations.UnassignedCodesRaiseIllegalCmd : Prop :=
  (∀ (s : State) (c : Byte), c ∉ assignedCodes → ∃ t, perform (.regWrite 0x00#8 (c.toNat : Int)) s = .next t ∧
    t.cmd = c ∧ StatusRaised 1#4 s t ∧ t = { s with cmd := t.cmd, status := t.status } ∧ BuffersSame s t) ∧
  (∀ (s : State) (c : Byte), ∃ t, exec (.unassigned c) s = .next t ∧ StatusRaised 1#4 s t ∧
    t = { s with status := t.status } ∧ BuffersSame s t) ∧
  ((List.range 256).countP (fun c => decide (BitVec.ofNat 8 c ∉ assignedCodes))) = 241

/-- The model's own reading (DEDUCED, log 7): the table's two start-delimiter rows, which are unassigned codes when written
to CMD (30_encoding.md R88), raise ILLEGAL_CMD like every other. -/
def Obligations.StartDelimiterRowsRaiseIllegalCmd : Prop :=
  ∀ (s : State) (i : Instr), (∃ l, i = .tgQuery l) ∨ (∃ l, i = .tgSend l) →
    ∃ t, exec i s = .next t ∧ StatusRaised 1#4 s t ∧ t = { s with status := t.status } ∧ BuffersSame s t

/-! ## Checksum unit -/

/-- CSCLR (40_checksum.md R112), and that a second CSCLR leaves the same state. -/
def Obligations.CsclrClearsAccumulator : Prop :=
  decodeByte 0x10#8 = .csclr ∧
  ∀ s : State, ∃ t, exec .csclr s = .next t ∧ t.csacc = 0#16 ∧ StatusDone s t ∧
    t = { s with csacc := t.csacc, status := t.status } ∧ BuffersSame s t ∧ exec .csclr t = .next t

/-- CSADD adds CS_IN modulo 2^16, the host may seed CSACC, and bytes added one by one add their checksum
(40_checksum.md R113). -/
def Obligations.CsaddAddsModulo : Prop :=
  decodeByte 0x11#8 = .csadd ∧
  (∀ s : State, ∃ t, exec .csadd s = .next t ∧ t.csacc.toNat = (s.csacc.toNat + s.csIn.toNat) % 65536 ∧
    StatusDone s t ∧ t = { s with csacc := t.csacc, status := t.status } ∧ BuffersSame s t) ∧
  (∀ (s : State) (v : Int), perform (.regWrite 0x03#8 v) s = .next { s with csacc := BitVec.ofInt 16 v }) ∧
  (∀ (bs : List Byte) (s t : State), exec .csclr s = .next t →
    ∃ u, feedChecksum bs t = some u ∧ u.csacc = sum16 bs)

/-- `sum16` is the sum of the byte values modulo 2^16, whatever their order (40_checksum.md R110). -/
def Obligations.Sum16IsByteSumModulo : Prop :=
  sum16 [] = 0#16 ∧
  (∀ bs : List Byte, (sum16 bs).toNat = byteSum bs % 65536) ∧
  (∀ as bs : List Byte, as.Perm bs → sum16 as = sum16 bs)

/-- The laws of `sum16` (40_checksum.md R111): it is incremental; under 258 bytes do not wrap, and 19 bytes sum to at
most 4845; one flipped bit k changes it by ±2^k, so it changes; sequences whose byte sums are equal are not told apart. -/
def Obligations.Sum16Laws : Prop :=
  (∀ as bs : List Byte, (sum16 (as ++ bs)).toNat = ((sum16 as).toNat + (sum16 bs).toNat) % 65536) ∧
  (∀ (as : List Byte) (b : Byte), (sum16 (as ++ [b])).toNat = ((sum16 as).toNat + b.toNat) % 65536) ∧
  (∀ bs : List Byte, byteSum bs ≤ 255 * bs.length) ∧
  (∀ bs : List Byte, bs.length < 258 → (sum16 bs).toNat = byteSum bs) ∧
  (∀ bs : List Byte, bs.length ≤ 19 → (sum16 bs).toNat ≤ 4845) ∧
  (∀ (bs : List Byte) (i k : Nat) (h : i < bs.length), k < 8 →
    (sum16 (bs.set i (bs[i] ^^^ BitVec.twoPow 8 k)) = sum16 bs + BitVec.twoPow 16 k ∨
      sum16 (bs.set i (bs[i] ^^^ BitVec.twoPow 8 k)) = sum16 bs - BitVec.twoPow 16 k) ∧
    sum16 (bs.set i (bs[i] ^^^ BitVec.twoPow 8 k)) ≠ sum16 bs) ∧
  (∀ as bs : List Byte, byteSum as = byteSum bs → sum16 as = sum16 bs)

/-! ## Frame codec -/

/-- The start delimiter and its bit fields (30_encoding.md R81). -/
def Obligations.StartDelimiterFields : Prop :=
  ∀ n : Nat, n ≤ 16 →
    (startDelimiter .query n).toNat = 0x30 + 0x40 + (if 0 < n then n - 1 else 0) ∧
    (startDelimiter .send n).toNat = 0x30 + 0xC0 + (if 0 < n then n - 1 else 0) ∧
    (startDelimiter .query n).getLsbD 7 = false ∧ (startDelimiter .send n).getLsbD 7 = true ∧
    ∀ k : RequestKind,
      (startDelimiter k n).extractLsb' 4 3 = 0b111#3 ∧
      ((startDelimiter k n).extractLsb' 0 4).toNat = (if 0 < n then n - 1 else 0)

/-- A start delimiter reads back as its kind and length, and no other byte reads as one (30_encoding.md R91); it is also the
word of the opcode table's start-delimiter row for that length (the model's reading, log 7). -/
def Obligations.StartDelimiterReadsBack : Prop :=
  (∀ n : Nat, n ≤ 16 → ∀ k : RequestKind,
    classifyDelimiter (startDelimiter k n) = some (k, BitVec.ofNat 4 (max n 1 - 1)) ∧
    encode (match k with
      | .query => .tgQuery (BitVec.ofNat 4 (max n 1 - 1))
      | .send => .tgSend (BitVec.ofNat 4 (max n 1 - 1))) = [startDelimiter k n]) ∧
  (∀ (c : Byte) (k : RequestKind) (l : BitVec 4), classifyDelimiter c = some (k, l) →
    c = startDelimiter k (l.toNat + 1))

/-- ENC.Q and ENC.S: with PAY_LEN ≤ 16 TXBUF holds exactly the frame of R120; with more, ENC_LENGTH
(41_frame_codec.md R120, R121). -/
def Obligations.EncoderBuildsFrameOrRaisesLength : Prop :=
  decodeByte 0x20#8 = .encQ ∧ decodeByte 0x21#8 = .encS ∧
  ∀ p ∈ [(Instr.encQ, 0x40), (Instr.encS, 0xC0)], ∀ s : State,
    (s.payLen.toNat ≤ 16 → ∃ t, exec p.1 s = .next t ∧
      t.txLen.toNat = s.payLen.toNat + 5 ∧
      t.txCs.toNat = byteSum (frameHead p.2 s.txNode s.txObj s.payload) % 65536 ∧
      t.txBytes (s.payLen.toNat + 5) = frameOf p.2 s.txNode s.txObj s.payload ∧
      StatusDone s t ∧
      t = { s with tx := t.tx, txLen := t.txLen, txCs := t.txCs, status := t.status } ∧
      BuffersSameBut .tx 0 (s.payLen.toNat + 5) s t) ∧
    (16 < s.payLen.toNat → ∃ t, exec p.1 s = .next t ∧ t.txLen = 0#5 ∧ t.txCs = 0#16 ∧ StatusRaised 2#4 s t ∧
      t = { s with txLen := t.txLen, txCs := t.txCs, status := t.status } ∧ BuffersSame s t)

/-- The classification table (41_frame_codec.md R126, 60_exceptions.md R195): the fault of every device code, the kind
number of every pair of bytes, and that 246 of the 255 nonzero codes are unknown faults. -/
def Obligations.ClassifyFollowsFaultTable : Prop :=
  (∀ s e : Byte, s ≠ 0xFF#8 → classify s e = none) ∧ classify 0xFF#8 0x00#8 = none ∧
  classify 0xFF#8 0x03#8 = some .checksumIncorrect ∧ classify 0xFF#8 0x04#8 = some .startDelimiterIncorrect ∧
  classify 0xFF#8 0x05#8 = some .wrongOutputAddress ∧ classify 0xFF#8 0x07#8 = some .objectNotDefined ∧
  classify 0xFF#8 0x08#8 = some .objectLengthIncorrect ∧ classify 0xFF#8 0x09#8 = some .accessDenied ∧
  classify 0xFF#8 0x0F#8 = some .deviceLocked ∧ classify 0xFF#8 0x30#8 = some .upperLimitExceeded ∧
  classify 0xFF#8 0x31#8 = some .lowerLimitExceeded ∧
  (∀ e : Byte, e ∉ [0x00#8, 0x03#8, 0x04#8, 0x05#8, 0x07#8, 0x08#8, 0x09#8, 0x0F#8, 0x30#8, 0x31#8] →
    classify 0xFF#8 e = some .unknownFault) ∧
  (∀ s e : Byte, (match classify s e with
    | none => 0
    | some f => f.kind.toNat) = kindNumber s.toNat e.toNat) ∧
  ((List.range 256).countP (fun e => classify 0xFF#8 (BitVec.ofNat 8 e) == some .unknownFault)) = 246

/-- DEC on every state: the checks in their order, the two sums, RX_VALID, RX_ACK, RX_PLEN, FAULT and ERR
(41_frame_codec.md R125, R127, R129). -/
def Obligations.DecValidatesThenClassifies : Prop :=
  decodeByte 0x30#8 = .dec ∧
  ∀ s : State, ∃ t, exec .dec s = .next t ∧ BuffersSame s t ∧
    t = { s with status := t.status, fault := t.fault, rxPlen := t.rxPlen, rxCscalc := t.rxCscalc, rxCsrecv := t.rxCsrecv } ∧
    (if s.params.rxCap < s.rxLen.toNat then
      t.status = { s.status with err := 3#4, sticky := true, rxValid := false, rxAck := false } ∧
      t.fault.word = 0#16 ∧ t.rxPlen = 0#8 ∧ t.rxCscalc = 0#16 ∧ t.rxCsrecv = 0#16
    else if s.rxLen.toNat < 5 then
      t.status = { s.status with err := 4#4, sticky := true, rxValid := false, rxAck := false } ∧
      t.fault.word = 0#16 ∧ t.rxPlen = 0#8 ∧ t.rxCscalc = 0#16 ∧ t.rxCsrecv = 0#16
    else
      t.rxCscalc.toNat = byteSum (s.rxBytes (s.rxLen.toNat - 2)) % 65536 ∧
      t.rxCsrecv.toNat = 256 * (s.memRead .rx (s.rxLen.toNat - 2)).toNat + (s.memRead .rx (s.rxLen.toNat - 1)).toNat ∧
      if t.rxCscalc ≠ t.rxCsrecv then
        t.status = { s.status with err := 5#4, sticky := true, rxValid := false, rxAck := false } ∧
        t.fault.word = 0#16 ∧ t.rxPlen = 0#8
      else
        t.rxPlen.toNat = s.rxLen.toNat - 5 ∧
        (t.status.rxAck = true ↔ s.memRead .rx 2 = 0xFF#8 ∧ s.memRead .rx 3 = 0x00#8) ∧
        if kindNumber (s.memRead .rx 2).toNat (s.memRead .rx 3).toNat = 0 then
          t.status = { s.status with err := 0#4, rxValid := true, rxAck := t.status.rxAck } ∧ t.fault.word = 0#16
        else
          t.status = { s.status with err := 6#4, sticky := true, rxValid := true, rxAck := t.status.rxAck } ∧
          t.fault.word.toNat =
            256 * (s.memRead .rx 3).toNat + kindNumber (s.memRead .rx 2).toNat (s.memRead .rx 3).toNat)

/-- The round trip (41_frame_codec.md R131): bytes followed by their checksum validate from length 3 on and stay unchanged,
shorter ones are TRUNCATED, and every frame ENC builds validates when copied into RXBUF. -/
def Obligations.DecAcceptsChecksummedBytes : Prop :=
  (∀ (bs : List Byte) (s : State), 3 ≤ bs.length → bs.length + 2 ≤ s.params.rxCap → s.rxLen.toNat = bs.length + 2 →
    s.rxBytes (bs.length + 2) = bs ++ [hiByte (sum16 bs), loByte (sum16 bs)] →
    ∃ t, exec .dec s = .next t ∧ t.status.rxValid = true ∧ t.rxBytes bs.length = bs ∧
      (t.status.err = 0#4 ∨ t.status.err = 6#4) ∧
      (t.status.err = 6#4 ↔ t.memRead .rx 2 = 0xFF#8 ∧ t.memRead .rx 3 ≠ 0x00#8)) ∧
  (∀ (bs : List Byte) (s : State), bs.length ≤ 2 → bs.length + 2 ≤ s.params.rxCap → s.rxLen.toNat = bs.length + 2 →
    ∃ t, exec .dec s = .next t ∧ t.status.err = 4#4 ∧ t.status.rxValid = false) ∧
  (∀ i ∈ [Instr.encQ, Instr.encS], ∀ s t u : State, exec i s = .next t → t.status.err = 0#4 → u.params.Legal →
    u.rxLen.toNat = t.txLen.toNat → u.rxBytes t.txLen.toNat = t.txBytes t.txLen.toNat →
    ∃ v, exec .dec u = .next v ∧ v.status.rxValid = true)

/-- Flipping one bit of a validly-checksummed frame outside its checksum bytes makes DEC raise CHECKSUM_MISMATCH
(40_checksum.md R111, 95_test_vectors.md S4). -/
def Obligations.DecDetectsSingleBitFlip : Prop :=
  ∀ (s u : State) (j k : Nat), 5 ≤ s.rxLen.toNat → s.rxLen.toNat ≤ u.params.rxCap → u.rxLen = s.rxLen →
    sum16 (s.rxBytes (s.rxLen.toNat - 2)) =
      be16 (s.memRead .rx (s.rxLen.toNat - 2)) (s.memRead .rx (s.rxLen.toNat - 1)) →
    j < s.rxLen.toNat - 2 → k < 8 →
    u.memRead .rx j = s.memRead .rx j ^^^ BitVec.twoPow 8 k →
    (∀ a, a < s.rxLen.toNat → a ≠ j → u.memRead .rx a = s.memRead .rx a) →
    ∃ t, exec .dec u = .next t ∧ t.status.err = 5#4 ∧ t.status.rxValid = false

/-! ## Field marshalling -/

/-- UNPK16 (42_fields.md R150). -/
def Obligations.Unpk16ReadsBigEndianField : Prop :=
  decodeByte 0x40#8 = .unpk16 ∧
  ∀ s : State, ∃ t, exec .unpk16 s = .next t ∧ t = { s with raw16 := t.raw16, status := t.status } ∧ BuffersSame s t ∧
    if s.params.rxCap < s.rxLen.toNat then StatusRaised 3#4 s t ∧ t.raw16 = s.raw16
    else if s.rxLen.toNat ≤ s.fldOff.toNat + 1 then StatusRaised 7#4 s t ∧ t.raw16 = s.raw16
    else StatusDone s t ∧
      t.raw16.toNat = 256 * (s.memRead .rx s.fldOff.toNat).toNat + (s.memRead .rx (s.fldOff.toNat + 1)).toNat

/-- PK16 (42_fields.md R151). -/
def Obligations.Pk16WritesBigEndianPayload : Prop :=
  decodeByte 0x41#8 = .pk16 ∧
  ∀ s : State, ∃ t, exec .pk16 s = .next t ∧ t = { s with pay := t.pay, payLen := t.payLen, status := t.status } ∧
    (t.memRead .pay 0).toNat = s.raw16.toNat / 256 ∧ (t.memRead .pay 1).toNat = s.raw16.toNat % 256 ∧
    t.payLen = 2#5 ∧ StatusDone s t ∧ BuffersSameBut .pay 0 2 s t

/-- F32BITS (42_fields.md R153). -/
def Obligations.F32bitsReversesPayload : Prop :=
  decodeByte 0x42#8 = .f32bits ∧
  ∀ s : State, ∃ t, exec .f32bits s = .next t ∧ t = { s with fldW32 := t.fldW32, status := t.status } ∧ BuffersSame s t ∧
    if s.params.rxCap < s.rxLen.toNat then StatusRaised 3#4 s t ∧ t.fldW32 = s.fldW32
    else if s.rxLen.toNat ≠ 9 then StatusRaised 7#4 s t ∧ t.fldW32 = s.fldW32
    else StatusDone s t ∧
      t.fldW32.toNat = 16777216 * (s.memRead .rx 6).toNat + 65536 * (s.memRead .rx 5).toNat +
        256 * (s.memRead .rx 4).toNat + (s.memRead .rx 3).toNat

/-! ## Scaler unit -/

/-- `round_div(a, b)` is the integer nearest to a / b; at an exact half it is the even one under EVEN and the one farther
from zero under AWAY (43_scaler.md R161). -/
def Obligations.RoundDivIsNearest : Prop :=
  ∀ (ties : RoundTies) (a b : Int), 1 ≤ b →
    2 * |a - roundDiv ties a b * b| ≤ b ∧
    (2 * |a - roundDiv ties a b * b| = b →
      match ties with
      | .even => roundDiv ties a b % 2 = 0
      | .away => |a| < |roundDiv ties a b * b|)

/-- SCUP.V and SCUP.I (43_scaler.md R162): before CALLOCK, NOT_CALIBRATED; after it, with a nonzero nominal N, RAW16 is
round_div(PHYS * 25600, N) where that fits 16 signed bits, else RANGE. -/
def Obligations.ScupScalesUp : Prop :=
  decodeByte 0x50#8 = .scupV ∧ decodeByte 0x51#8 = .scupI ∧
  ∀ p ∈ [(Instr.scupV, State.calV), (Instr.scupI, State.calI)], ∀ s : State,
    (s.status.calLock = false → ∃ t, exec p.1 s = .next t ∧ StatusRaised 8#4 s t ∧ t = { s with status := t.status } ∧
      BuffersSame s t) ∧
    (s.status.calLock = true → p.2 s ≠ 0#32 → ∃ t, exec p.1 s = .next t ∧
      t = { s with raw16 := t.raw16, status := t.status } ∧ BuffersSame s t ∧
      if roundDiv s.params.ties (s.phys.toInt * 25600) (p.2 s).toNat < -32768 ∨
          32767 < roundDiv s.params.ties (s.phys.toInt * 25600) (p.2 s).toNat then
        StatusRaised 10#4 s t ∧ t.raw16 = s.raw16
      else StatusDone s t ∧ t.raw16.toInt = roundDiv s.params.ties (s.phys.toInt * 25600) (p.2 s).toNat)

/-- SCDN.V and SCDN.I (43_scaler.md R165): before CALLOCK, NOT_CALIBRATED; after it, PHYS is
round_div(N * RAW16, 25600), RAW16 read unsigned, where that is at most 2^31 - 1, else RANGE. -/
def Obligations.ScdnScalesDown : Prop :=
  decodeByte 0x52#8 = .scdnV ∧ decodeByte 0x53#8 = .scdnI ∧
  ∀ p ∈ [(Instr.scdnV, State.calV), (Instr.scdnI, State.calI)], ∀ s : State,
    (s.status.calLock = false → ∃ t, exec p.1 s = .next t ∧ StatusRaised 8#4 s t ∧ t = { s with status := t.status } ∧
      BuffersSame s t) ∧
    (s.status.calLock = true → ∃ t, exec p.1 s = .next t ∧
      t = { s with phys := t.phys, status := t.status } ∧ BuffersSame s t ∧
      if 2147483647 < roundDiv s.params.ties ((p.2 s).toNat * s.raw16.toNat) 25600 then
        StatusRaised 10#4 s t ∧ t.phys = s.phys
      else StatusDone s t ∧ t.phys.toInt = roundDiv s.params.ties ((p.2 s).toNat * s.raw16.toNat) 25600)

/-- While STATUS.CAL_LOCK = 0 the four scaler commands raise NOT_CALIBRATED and change nothing but STATUS
(43_scaler.md R164). -/
def Obligations.ScalerNeedsCalibration : Prop :=
  ∀ i ∈ [Instr.scupV, Instr.scupI, Instr.scdnV, Instr.scdnI], ∀ s : State, s.status.calLock = false →
    ∃ t, exec i s = .next t ∧ StatusRaised 8#4 s t ∧ t = { s with status := t.status } ∧ BuffersSame s t

/-- The laws of SCUP (43_scaler.md R163): monotone, within full scale, within half a raw unit, and the edges of RANGE for
N = 25600. -/
def Obligations.ScaleUpLaws : Prop :=
  (∀ ties : RoundTies,
    (∀ p q n : Int, 1 ≤ n → p ≤ q → scaleUp ties p n ≤ scaleUp ties q n) ∧
    (∀ p n : Int, 1 ≤ n → 0 ≤ p → p ≤ n → 0 ≤ scaleUp ties p n ∧ scaleUp ties p n ≤ 25600) ∧
    (∀ p n : Int, 1 ≤ n → 2 * |scaleUp ties p n * n - p * 25600| ≤ n)) ∧
  (∀ s t : State, s.status.calLock = true → s.calV = 25600#32 → exec .scupV s = .next t →
    (s.phys.toInt = 32767 → t.raw16 = 0x7FFF#16 ∧ t.status.err = 0#4) ∧
    (s.phys.toInt = 32768 → t.raw16 = s.raw16 ∧ t.status.err = 10#4) ∧
    (s.phys.toInt = -32768 → t.raw16 = 0x8000#16 ∧ t.status.err = 0#4) ∧
    (s.phys.toInt = -32769 → t.raw16 = s.raw16 ∧ t.status.err = 10#4))

/-- The laws of SCDN (43_scaler.md R166): monotone in R, within half a physical unit, and within the nominal for R in
0..25600. -/
def Obligations.ScaleDownLaws : Prop :=
  ∀ (ties : RoundTies) (n : Int), 0 ≤ n →
    (∀ r q : Int, r ≤ q → scaleDown ties r n ≤ scaleDown ties q n) ∧
    (∀ r : Int, 2 * |scaleDown ties r n * 25600 - n * r| ≤ 25600) ∧
    (∀ r : Int, 0 ≤ r → r ≤ 25600 → 0 ≤ scaleDown ties r n ∧ scaleDown ties r n ≤ n)

/-- The scaling round trip (43_scaler.md R167): SCUP then SCDN on one channel recovers a physical value in 0..N within
floor(N / 51200 + 1/2), exactly for N < 25600 and within N / 25600 otherwise. -/
def Obligations.ScaleRoundTrip : Prop :=
  ∀ p ∈ [(Instr.scupV, Instr.scdnV, State.calV), (Instr.scupI, Instr.scdnI, State.calI)], ∀ s : State,
    s.status.calLock = true → 1 ≤ (p.2.2 s).toNat → 0 ≤ s.phys.toInt → s.phys.toInt ≤ (p.2.2 s).toNat →
    ∃ t u, exec p.1 s = .next t ∧ exec p.2.1 t = .next u ∧
      |u.phys.toInt - s.phys.toInt| ≤ (((p.2.2 s).toNat : Int) + 25600) / 51200 ∧
      ((p.2.2 s).toNat < 25600 → u.phys = s.phys) ∧
      (25600 ≤ (p.2.2 s).toNat → |u.phys.toInt - s.phys.toInt| * 25600 ≤ (p.2.2 s).toNat)

/-- CALLOCK, and that a set lock and its two nominals stay until a Reset transaction (43_scaler.md R168). -/
def Obligations.CallockLocksNonzeroNominals : Prop :=
  decodeByte 0x60#8 = .callock ∧
  (∀ s : State, ∃ t, exec .callock s = .next t ∧ t = { s with status := t.status } ∧ BuffersSame s t ∧
    if s.status.calLock = true then StatusDone s t
    else if s.calV = 0#32 ∨ s.calI = 0#32 then StatusRaised 9#4 s t
    else t.status = { s.status with err := 0#4, calLock := true }) ∧
  (∀ (op : HostOp) (s t : State), s.status.calLock = true → op ≠ .reset → perform op s = .next t →
    t.status.calLock = true ∧ t.calV = s.calV ∧ t.calI = s.calI) ∧
  (∀ s t : State, perform .reset s = .next t → t.status.calLock = false)

/-- The model's own stop (DEDUCED, log 9): SCUP with the lock set and a zero nominal, which 43_scaler.md R162 says cannot
be, is the fault `zeroNominal`, and no other command or state faults. -/
def Obligations.ScupFaultsOnlyOnLockedZeroNominal : Prop :=
  ∀ (i : Instr) (s : State) (f : Fault), exec i s = .fault f ↔
    s.status.calLock = true ∧ ((i = .scupV ∧ s.calV = 0#32) ∨ (i = .scupI ∧ s.calI = 0#32))

/-! ## Rules over all commands -/

/-- No command writes a register or buffer that the table of 10_state.md R50 does not list for it. -/
def Obligations.CommandsWriteOnlyTheirOutputs : Prop :=
  ∀ (i : Instr) (s t : State), exec i s = .next t →
    (t.cmd = s.cmd ∧ t.csIn = s.csIn ∧ t.txNode = s.txNode ∧ t.txObj = s.txObj ∧ t.rxLen = s.rxLen ∧ t.fldOff = s.fldOff ∧
      t.calV = s.calV ∧ t.calI = s.calI ∧ t.params = s.params ∧ t.pending = s.pending ∧ t.replies = s.replies ∧
      t.owner = s.owner ∧ t.epoch = s.epoch ∧ ∀ a, t.memRead .rx a = s.memRead .rx a) ∧
    (i ∉ [Instr.csclr, .csadd] → t.csacc = s.csacc) ∧
    (i ∉ [Instr.encQ, .encS] → t.txLen = s.txLen ∧ t.txCs = s.txCs ∧ ∀ a, t.memRead .tx a = s.memRead .tx a) ∧
    (i ≠ .pk16 → t.payLen = s.payLen ∧ ∀ a, t.memRead .pay a = s.memRead .pay a) ∧
    (i ≠ .dec → t.fault = s.fault ∧ t.rxPlen = s.rxPlen ∧ t.rxCscalc = s.rxCscalc ∧ t.rxCsrecv = s.rxCsrecv ∧
      t.status.rxValid = s.status.rxValid ∧ t.status.rxAck = s.status.rxAck) ∧
    (i ∉ [Instr.unpk16, .scupV, .scupI] → t.raw16 = s.raw16) ∧
    (i ≠ .f32bits → t.fldW32 = s.fldW32) ∧
    (i ∉ [Instr.scdnV, .scdnI] → t.phys = s.phys) ∧
    (i ≠ .callock → t.status.calLock = s.status.calLock)

/-- Each command leaves in ERR only a code that 60_exceptions.md R190 gives it; with an error STICKY is 1, and without one
STICKY stays (CLRERR apart) (10_state.md R47). -/
def Obligations.ErrorCodesPerCommand : Prop :=
  ∀ (i : Instr) (s t : State), exec i s = .next t →
    t.status.err ∈ allowedErr i ∧
    (t.status.err ≠ 0#4 → t.status.sticky = true) ∧
    (t.status.err = 0#4 → i ≠ .clrerr → t.status.sticky = s.status.sticky)

/-- From a state whose calibration is sound every step has a next state, unless a second agent's transaction is refused
(20_memory.md R70, 60_exceptions.md R203; the refusal is the model's, log 8). -/
def Obligations.StepStopsOnlyForSecondHost : Prop :=
  ∀ s : State, s.CalibrationSound →
    (∃ t, step s = .next t) ∨
    (step s = .refused .secondHost ∧ ∃ tr rest a, s.pending = tr :: rest ∧ s.owner = some a ∧ tr.agent ≠ a)

/-- ENC and DEC use their own adder: CSACC plays no part in what they do (10_state.md R27). -/
def Obligations.CodecIgnoresAccumulator : Prop :=
  ∀ i ∈ [Instr.encQ, Instr.encS, Instr.dec], ∀ (s : State) (x : Half),
    exec i (s.withCsacc x) = mapNext (State.withCsacc x) (exec i s)

/-- The informative units play no part in any step (00_scope.md R7; their representation is the model's, log 4). -/
def Obligations.UnitsAreInformative : Prop :=
  ∀ (s : State) (u v : PhysUnit), step (s.withUnits u v) = mapNext (State.withUnits u v) (step s)

/-- Bytes at indices from RX_LEN and PAY_LEN on, and all of TXBUF, play no part in what a command leaves in the registers
and in the frame it builds (93_implementation_defined.md I4, I10). -/
def Obligations.BytesBeyondLengthsDoNotMatter : Prop :=
  ∀ (i : Instr) (s u t : State), u = { s with pay := u.pay, tx := u.tx, rx := u.rx } →
    (∀ a, a < s.rxLen.toNat → u.memRead .rx a = s.memRead .rx a) →
    (∀ a, a < s.payLen.toNat → u.memRead .pay a = s.memRead .pay a) →
    exec i s = .next t →
    ∃ v, exec i u = .next v ∧ v = { t with pay := v.pay, tx := v.tx, rx := v.rx } ∧
      (i ∈ [Instr.encQ, Instr.encS] → v.txBytes v.txLen.toNat = t.txBytes t.txLen.toNat) ∧
      (i = .pk16 → v.payload = t.payload)

/-! ## The step and the host's transactions -/

/-- A host write of value v to CMD stores its low 8 bits and runs the command they decode to, as one step
(30_encoding.md R85); around it the step takes the transaction from the queue and records its agent (logs 1 and 8). -/
def Obligations.StepRunsDecodedInstruction : Prop :=
  ∀ (s : State) (a : Nat) (v : Int) (rest : List Transaction) (i : Instr), s.Next a (.regWrite 0x00#8 v) rest →
    decode [BitVec.ofInt 8 v] = .ok i → i.wellFormed = true →
    step s = exec i { s with pending := rest, owner := some a, cmd := BitVec.ofInt 8 v }

/-- A step is the oldest pending transaction of the instance's agent (20_memory.md R66, R71; the queue and the owner are the
model's, logs 1 and 8). -/
def Obligations.StepPerformsOldestTransaction : Prop :=
  ∀ (s : State) (a : Nat) (op : HostOp) (rest : List Transaction), s.Next a op rest →
    step s = perform op { s with pending := rest, owner := some a }

/-- With no transaction pending a step changes nothing (70_reset_and_hazards.md R222; the queue is the model's, log 2). -/
def Obligations.IdleStepChangesNothing : Prop :=
  ∀ s : State, s.pending = [] → step s = .next s

/-- A transaction of a second agent is refused (60_exceptions.md R212; how agents are told apart is the model's, log 8). -/
def Obligations.SecondHostIsRefused : Prop :=
  ∀ (s : State) (a b : Nat) (op : HostOp) (rest : List Transaction), s.owner = some a → b ≠ a →
    s.pending = { agent := b, op := op } :: rest → step s = .refused .secondHost

/-- A register read hands the register's value to the host and changes nothing else (20_memory.md R61, R68, 10_state.md R23,
R25, R26). That the value is put on the list `replies` is the model's choice (DESIGN CHOICE, log 11). -/
def Obligations.RegisterReadsReturnValues : Prop :=
  ∀ (s : State) (i : BitVec 8), ∃ x : Word, perform (.regRead i) s = .next { s with replies := x :: s.replies } ∧
    ∀ r ∈ s.registerRows, i = r.1 → x.toNat = r.2

/-- A write to a writable register stores its low bits and changes no other register and no buffer byte, but that a write
to RX_LEN clears RX_VALID and RX_ACK (20_memory.md R61, R68). -/
def Obligations.RegisterWritesStoreTruncated : Prop :=
  ∀ r ∈ writableRegisters, ∀ (s : State) (v : Int),
    ∃ t, perform (.regWrite r.1 v) s = .next t ∧ ((t.regRead r.1).toNat : Int) = v % 2 ^ r.2 ∧
      (∀ j, j ≠ r.1 → j ≠ 0x01#8 → t.regRead j = s.regRead j) ∧
      t.status = (if r.1 = 0x0A#8 then { s.status with rxValid := false, rxAck := false } else s.status) ∧
      BuffersSame s t ∧ t.params = s.params ∧ t.epoch = s.epoch ∧ t.replies = s.replies ∧ t.pending = s.pending ∧
      t.owner = s.owner

/-- A write to a read-only register is ignored (20_memory.md R61). -/
def Obligations.ReadOnlyWritesIgnored : Prop :=
  ∀ i ∈ readOnlyRegisters, ∀ (s : State) (v : Int), perform (.regWrite i v) s = .next s

/-- CAL_V and CAL_I: a host write stores the value while CAL_LOCK = 0 and is ignored while it is 1, no command writes them,
and CALLOCK locks only nonzero values (10_state.md R42). -/
def Obligations.CalibrationWritableUntilLocked : Prop :=
  (∀ (s : State) (v : Int), perform (.regWrite 0x12#8 v) s =
    .next (if s.status.calLock = true then s else { s with calV := BitVec.ofInt 32 v })) ∧
  (∀ (s : State) (v : Int), perform (.regWrite 0x13#8 v) s =
    .next (if s.status.calLock = true then s else { s with calI := BitVec.ofInt 32 v })) ∧
  (∀ (i : Instr) (s t : State), exec i s = .next t → t.calV = s.calV ∧ t.calI = s.calI) ∧
  (∀ s t : State, s.status.calLock = false → exec .callock s = .next t →
    (t.status.calLock = true ↔ 1 ≤ s.calV.toNat ∧ 1 ≤ s.calI.toNat))

/-- Unmapped registers and buffer indices outside the range read 0 and ignore writes, every write to TXBUF is ignored, and
none of these changes STATUS (20_memory.md R62). That a read's 0 is put on the list `replies` is the model's choice (DESIGN
CHOICE, log 11). -/
def Obligations.AbsentLocationsReadZeroIgnoreWrites : Prop :=
  (∀ (s : State) (i : BitVec 8), 0x14 ≤ i.toNat → perform (.regRead i) s = .next { s with replies := 0#32 :: s.replies }) ∧
  (∀ (s : State) (i : BitVec 8) (v : Int), 0x14 ≤ i.toNat → perform (.regWrite i v) s = .next s) ∧
  (∀ (s : State) (sp : BufSpace) (i : Nat), s.bufSize sp ≤ i →
    perform (.bufRead sp i) s = .next { s with replies := 0#32 :: s.replies }) ∧
  (∀ (s : State) (sp : BufSpace) (i : Nat) (v : Int), sp = .tx ∨ s.bufSize sp ≤ i →
    perform (.bufWrite sp i v) s = .next s)

/-- A buffer write in PAY or RX stores the low 8 bits at that index alone, in RX it also clears RX_VALID and RX_ACK, and a
buffer read hands the byte to the host and changes nothing else (20_memory.md R61, R68, 10_state.md R44 to R46). That the
byte read is put on the list `replies`, zero-extended to 32 bits, is the model's choice (DESIGN CHOICE, log 11). -/
def Obligations.BufferAccessesMoveOneByte : Prop :=
  (∀ (s : State) (i : Nat) (v : Int), i < 16 → ∃ t, perform (.bufWrite .pay i v) s = .next t ∧
    t.memRead .pay i = BitVec.ofInt 8 v ∧ BuffersSameBut .pay i 1 s t ∧ t = { s with pay := t.pay }) ∧
  (∀ (s : State) (i : Nat) (v : Int), i < s.params.rxCap → ∃ t, perform (.bufWrite .rx i v) s = .next t ∧
    t.memRead .rx i = BitVec.ofInt 8 v ∧ BuffersSameBut .rx i 1 s t ∧
    t = { s with rx := t.rx, status := { s.status with rxValid := false, rxAck := false } }) ∧
  (∀ (s : State) (i : Nat) (sp : BufSpace), i < s.bufSize sp →
    perform (.bufRead sp i) s = .next { s with replies := (s.memRead sp i).setWidth 32 :: s.replies })

/-- But for CMD, writing the same value twice to a location leaves the same state as writing it once
(20_memory.md R68). -/
def Obligations.HostWritesAreIdempotent : Prop :=
  (∀ (s t : State) (i : BitVec 8) (v : Int), i ≠ 0x00#8 → perform (.regWrite i v) s = .next t →
    perform (.regWrite i v) t = .next t) ∧
  (∀ (s t : State) (sp : BufSpace) (i : Nat) (v : Int), perform (.bufWrite sp i v) s = .next t →
    perform (.bufWrite sp i v) t = .next t)

/-- Reset leaves every register and every STATUS field 0 and does not change the parameters; the power-on state is such a
state (70_reset_and_hazards.md R220, R221). -/
def Obligations.ResetClearsRegisters : Prop :=
  (∀ s : State, ∃ t, perform .reset s = .next t ∧ (∀ i, t.regRead i = 0#32) ∧
    t.status = { err := 0#4, sticky := false, rxValid := false, rxAck := false, calLock := false } ∧
    t.params = s.params) ∧
  (∀ i, State.reset.regRead i = 0#32) ∧
  State.reset.status = { err := 0#4, sticky := false, rxValid := false, rxAck := false, calLock := false }

/-- After a Reset every buffer byte is the free value of the new epoch, until it is written (the model's form of
70_reset_and_hazards.md R220's unspecified contents, logs 5, 6 and 15). -/
def Obligations.ResetBytesAreFree : Prop :=
  ∀ s : State, ∃ t, perform .reset s = .next t ∧
    (∀ sp i, t.memRead sp i = Config.unwrittenByte (s.epoch + 1) sp i) ∧
    t.pending = s.pending ∧ t.replies = s.replies ∧ t.owner = s.owner ∧ t.epoch = s.epoch + 1

/-- No step changes the parameters (70_reset_and_hazards.md R220). -/
def Obligations.StepKeepsParameters : Prop :=
  ∀ s t : State, step s = .next t → t.params = s.params

/-! ## Invariants -/

/-- Every step keeps ERR and KIND at 10 or less, CODE nonzero exactly when KIND is, and RX_ACK beside RX_VALID
(10_state.md R25, R26). -/
def Obligations.StepKeepsStatusLegal : Prop :=
  ∀ s t : State, s.StatusLegal → step s = .next t → t.StatusLegal

/-- Every step keeps two nonzero nominals behind a set lock (43_scaler.md R162, R168). -/
def Obligations.StepKeepsCalibrationSound : Prop :=
  ∀ s t : State, s.CalibrationSound → step s = .next t → t.CalibrationSound

/-- Every step keeps the canonical form of the three buffers, each within its size (the sizes are 20_memory.md R60's; the
form is the model's, log 5). -/
def Obligations.StepKeepsMemoryCanonical : Prop :=
  ∀ s t : State, s.memoryWf = true → step s = .next t → t.memoryWf = true

/-- Every step keeps TXBUF's first TX_LEN bytes a whole telegram: its start delimiter is a request's for its length and its
last two bytes are TX_CS, the checksum of all bytes before them (41_frame_codec.md R122, 30_encoding.md R83). -/
def Obligations.StepKeepsTelegramSound : Prop :=
  ∀ s t : State, s.TelegramSound → step s = .next t → t.TelegramSound

/-- Every step keeps RX_VALID a voucher for the bytes that RXBUF holds: their checksum is right, and RX_PLEN, RX_CSCALC,
RX_CSRECV, RX_ACK and FAULT are theirs (10_state.md R25, R35 to R37, 41_frame_codec.md R127, R129). -/
def Obligations.StepKeepsFrameVouched : Prop :=
  ∀ s t : State, s.FrameVouched → step s = .next t → t.FrameVouched

/-- The reset state meets every invariant (70_reset_and_hazards.md R220; that it carries the default parameters is the
model's choice, log 3). -/
def Obligations.ResetMeetsInvariants : Prop :=
  State.reset.StatusLegal ∧ State.reset.CalibrationSound ∧ State.reset.memoryWf = true ∧ State.reset.TelegramSound ∧
    State.reset.FrameVouched ∧ State.reset.params.Legal
end

