-- ==== Sys2Proof/Laws/State.lean ====
section
/-! SUPPORT. One lemma per field per update of State, each true by `rfl` or by cases on the byte space, so that no proof
unfolds a record update. -/

namespace Sys2Proof.Machine

section
variable (s : State)
@[simp] theorem State.done_cmd : s.done.cmd = s.cmd := rfl
@[simp] theorem State.done_status : s.done.status = { s.status with err := 0#4 } := rfl
@[simp] theorem State.done_fault : s.done.fault = s.fault := rfl
@[simp] theorem State.done_csacc : s.done.csacc = s.csacc := rfl
@[simp] theorem State.done_csIn : s.done.csIn = s.csIn := rfl
@[simp] theorem State.done_txNode : s.done.txNode = s.txNode := rfl
@[simp] theorem State.done_txObj : s.done.txObj = s.txObj := rfl
@[simp] theorem State.done_payLen : s.done.payLen = s.payLen := rfl
@[simp] theorem State.done_txLen : s.done.txLen = s.txLen := rfl
@[simp] theorem State.done_txCs : s.done.txCs = s.txCs := rfl
@[simp] theorem State.done_rxLen : s.done.rxLen = s.rxLen := rfl
@[simp] theorem State.done_rxPlen : s.done.rxPlen = s.rxPlen := rfl
@[simp] theorem State.done_rxCscalc : s.done.rxCscalc = s.rxCscalc := rfl
@[simp] theorem State.done_rxCsrecv : s.done.rxCsrecv = s.rxCsrecv := rfl
@[simp] theorem State.done_fldOff : s.done.fldOff = s.fldOff := rfl
@[simp] theorem State.done_raw16 : s.done.raw16 = s.raw16 := rfl
@[simp] theorem State.done_fldW32 : s.done.fldW32 = s.fldW32 := rfl
@[simp] theorem State.done_phys : s.done.phys = s.phys := rfl
@[simp] theorem State.done_calV : s.done.calV = s.calV := rfl
@[simp] theorem State.done_calI : s.done.calI = s.calI := rfl
@[simp] theorem State.done_pay : s.done.pay = s.pay := rfl
@[simp] theorem State.done_tx : s.done.tx = s.tx := rfl
@[simp] theorem State.done_rx : s.done.rx = s.rx := rfl
@[simp] theorem State.done_params : s.done.params = s.params := rfl
@[simp] theorem State.done_pending : s.done.pending = s.pending := rfl
@[simp] theorem State.done_replies : s.done.replies = s.replies := rfl
@[simp] theorem State.done_owner : s.done.owner = s.owner := rfl
@[simp] theorem State.done_epoch : s.done.epoch = s.epoch := rfl
@[simp] theorem State.done_memRead (sp : BufSpace) (i : Nat) : s.done.memRead sp i = s.memRead sp i := by
  cases sp <;> rfl
@[simp] theorem State.done_bufMem (sp : BufSpace) : s.done.bufMem sp = s.bufMem sp := by
  cases sp <;> rfl
end

section
variable (s : State) (e : EngineError)
@[simp] theorem State.raise_cmd : (s.raise e).cmd = s.cmd := rfl
@[simp] theorem State.raise_status : (s.raise e).status = { s.status with err := e.code, sticky := true } := rfl
@[simp] theorem State.raise_fault : (s.raise e).fault = s.fault := rfl
@[simp] theorem State.raise_csacc : (s.raise e).csacc = s.csacc := rfl
@[simp] theorem State.raise_csIn : (s.raise e).csIn = s.csIn := rfl
@[simp] theorem State.raise_txNode : (s.raise e).txNode = s.txNode := rfl
@[simp] theorem State.raise_txObj : (s.raise e).txObj = s.txObj := rfl
@[simp] theorem State.raise_payLen : (s.raise e).payLen = s.payLen := rfl
@[simp] theorem State.raise_txLen : (s.raise e).txLen = s.txLen := rfl
@[simp] theorem State.raise_txCs : (s.raise e).txCs = s.txCs := rfl
@[simp] theorem State.raise_rxLen : (s.raise e).rxLen = s.rxLen := rfl
@[simp] theorem State.raise_rxPlen : (s.raise e).rxPlen = s.rxPlen := rfl
@[simp] theorem State.raise_rxCscalc : (s.raise e).rxCscalc = s.rxCscalc := rfl
@[simp] theorem State.raise_rxCsrecv : (s.raise e).rxCsrecv = s.rxCsrecv := rfl
@[simp] theorem State.raise_fldOff : (s.raise e).fldOff = s.fldOff := rfl
@[simp] theorem State.raise_raw16 : (s.raise e).raw16 = s.raw16 := rfl
@[simp] theorem State.raise_fldW32 : (s.raise e).fldW32 = s.fldW32 := rfl
@[simp] theorem State.raise_phys : (s.raise e).phys = s.phys := rfl
@[simp] theorem State.raise_calV : (s.raise e).calV = s.calV := rfl
@[simp] theorem State.raise_calI : (s.raise e).calI = s.calI := rfl
@[simp] theorem State.raise_pay : (s.raise e).pay = s.pay := rfl
@[simp] theorem State.raise_tx : (s.raise e).tx = s.tx := rfl
@[simp] theorem State.raise_rx : (s.raise e).rx = s.rx := rfl
@[simp] theorem State.raise_params : (s.raise e).params = s.params := rfl
@[simp] theorem State.raise_pending : (s.raise e).pending = s.pending := rfl
@[simp] theorem State.raise_replies : (s.raise e).replies = s.replies := rfl
@[simp] theorem State.raise_owner : (s.raise e).owner = s.owner := rfl
@[simp] theorem State.raise_epoch : (s.raise e).epoch = s.epoch := rfl
@[simp] theorem State.raise_memRead (sp : BufSpace) (i : Nat) : (s.raise e).memRead sp i = s.memRead sp i := by
  cases sp <;> rfl
@[simp] theorem State.raise_bufMem (sp : BufSpace) : (s.raise e).bufMem sp = s.bufMem sp := by
  cases sp <;> rfl
end

section
variable (s : State)
@[simp] theorem State.clearSticky_cmd : s.clearSticky.cmd = s.cmd := rfl
@[simp] theorem State.clearSticky_status : s.clearSticky.status = { s.status with sticky := false } := rfl
@[simp] theorem State.clearSticky_fault : s.clearSticky.fault = s.fault := rfl
@[simp] theorem State.clearSticky_csacc : s.clearSticky.csacc = s.csacc := rfl
@[simp] theorem State.clearSticky_csIn : s.clearSticky.csIn = s.csIn := rfl
@[simp] theorem State.clearSticky_txNode : s.clearSticky.txNode = s.txNode := rfl
@[simp] theorem State.clearSticky_txObj : s.clearSticky.txObj = s.txObj := rfl
@[simp] theorem State.clearSticky_payLen : s.clearSticky.payLen = s.payLen := rfl
@[simp] theorem State.clearSticky_txLen : s.clearSticky.txLen = s.txLen := rfl
@[simp] theorem State.clearSticky_txCs : s.clearSticky.txCs = s.txCs := rfl
@[simp] theorem State.clearSticky_rxLen : s.clearSticky.rxLen = s.rxLen := rfl
@[simp] theorem State.clearSticky_rxPlen : s.clearSticky.rxPlen = s.rxPlen := rfl
@[simp] theorem State.clearSticky_rxCscalc : s.clearSticky.rxCscalc = s.rxCscalc := rfl
@[simp] theorem State.clearSticky_rxCsrecv : s.clearSticky.rxCsrecv = s.rxCsrecv := rfl
@[simp] theorem State.clearSticky_fldOff : s.clearSticky.fldOff = s.fldOff := rfl
@[simp] theorem State.clearSticky_raw16 : s.clearSticky.raw16 = s.raw16 := rfl
@[simp] theorem State.clearSticky_fldW32 : s.clearSticky.fldW32 = s.fldW32 := rfl
@[simp] theorem State.clearSticky_phys : s.clearSticky.phys = s.phys := rfl
@[simp] theorem State.clearSticky_calV : s.clearSticky.calV = s.calV := rfl
@[simp] theorem State.clearSticky_calI : s.clearSticky.calI = s.calI := rfl
@[simp] theorem State.clearSticky_pay : s.clearSticky.pay = s.pay := rfl
@[simp] theorem State.clearSticky_tx : s.clearSticky.tx = s.tx := rfl
@[simp] theorem State.clearSticky_rx : s.clearSticky.rx = s.rx := rfl
@[simp] theorem State.clearSticky_params : s.clearSticky.params = s.params := rfl
@[simp] theorem State.clearSticky_pending : s.clearSticky.pending = s.pending := rfl
@[simp] theorem State.clearSticky_replies : s.clearSticky.replies = s.replies := rfl
@[simp] theorem State.clearSticky_owner : s.clearSticky.owner = s.owner := rfl
@[simp] theorem State.clearSticky_epoch : s.clearSticky.epoch = s.epoch := rfl
@[simp] theorem State.clearSticky_memRead (sp : BufSpace) (i : Nat) : s.clearSticky.memRead sp i = s.memRead sp i := by
  cases sp <;> rfl
@[simp] theorem State.clearSticky_bufMem (sp : BufSpace) : s.clearSticky.bufMem sp = s.bufMem sp := by
  cases sp <;> rfl
end

section
variable (s : State)
@[simp] theorem State.clearRxFlags_cmd : s.clearRxFlags.cmd = s.cmd := rfl
@[simp] theorem State.clearRxFlags_status : s.clearRxFlags.status = { s.status with rxValid := false, rxAck := false } := rfl
@[simp] theorem State.clearRxFlags_fault : s.clearRxFlags.fault = s.fault := rfl
@[simp] theorem State.clearRxFlags_csacc : s.clearRxFlags.csacc = s.csacc := rfl
@[simp] theorem State.clearRxFlags_csIn : s.clearRxFlags.csIn = s.csIn := rfl
@[simp] theorem State.clearRxFlags_txNode : s.clearRxFlags.txNode = s.txNode := rfl
@[simp] theorem State.clearRxFlags_txObj : s.clearRxFlags.txObj = s.txObj := rfl
@[simp] theorem State.clearRxFlags_payLen : s.clearRxFlags.payLen = s.payLen := rfl
@[simp] theorem State.clearRxFlags_txLen : s.clearRxFlags.txLen = s.txLen := rfl
@[simp] theorem State.clearRxFlags_txCs : s.clearRxFlags.txCs = s.txCs := rfl
@[simp] theorem State.clearRxFlags_rxLen : s.clearRxFlags.rxLen = s.rxLen := rfl
@[simp] theorem State.clearRxFlags_rxPlen : s.clearRxFlags.rxPlen = s.rxPlen := rfl
@[simp] theorem State.clearRxFlags_rxCscalc : s.clearRxFlags.rxCscalc = s.rxCscalc := rfl
@[simp] theorem State.clearRxFlags_rxCsrecv : s.clearRxFlags.rxCsrecv = s.rxCsrecv := rfl
@[simp] theorem State.clearRxFlags_fldOff : s.clearRxFlags.fldOff = s.fldOff := rfl
@[simp] theorem State.clearRxFlags_raw16 : s.clearRxFlags.raw16 = s.raw16 := rfl
@[simp] theorem State.clearRxFlags_fldW32 : s.clearRxFlags.fldW32 = s.fldW32 := rfl
@[simp] theorem State.clearRxFlags_phys : s.clearRxFlags.phys = s.phys := rfl
@[simp] theorem State.clearRxFlags_calV : s.clearRxFlags.calV = s.calV := rfl
@[simp] theorem State.clearRxFlags_calI : s.clearRxFlags.calI = s.calI := rfl
@[simp] theorem State.clearRxFlags_pay : s.clearRxFlags.pay = s.pay := rfl
@[simp] theorem State.clearRxFlags_tx : s.clearRxFlags.tx = s.tx := rfl
@[simp] theorem State.clearRxFlags_rx : s.clearRxFlags.rx = s.rx := rfl
@[simp] theorem State.clearRxFlags_params : s.clearRxFlags.params = s.params := rfl
@[simp] theorem State.clearRxFlags_pending : s.clearRxFlags.pending = s.pending := rfl
@[simp] theorem State.clearRxFlags_replies : s.clearRxFlags.replies = s.replies := rfl
@[simp] theorem State.clearRxFlags_owner : s.clearRxFlags.owner = s.owner := rfl
@[simp] theorem State.clearRxFlags_epoch : s.clearRxFlags.epoch = s.epoch := rfl
@[simp] theorem State.clearRxFlags_memRead (sp : BufSpace) (i : Nat) : s.clearRxFlags.memRead sp i = s.memRead sp i := by
  cases sp <;> rfl
@[simp] theorem State.clearRxFlags_bufMem (sp : BufSpace) : s.clearRxFlags.bufMem sp = s.bufMem sp := by
  cases sp <;> rfl
end

section
variable (s : State) (ack : Bool)
@[simp] theorem State.markFrameValid_cmd : (s.markFrameValid ack).cmd = s.cmd := rfl
@[simp] theorem State.markFrameValid_status : (s.markFrameValid ack).status = { s.status with rxValid := true, rxAck := ack } := rfl
@[simp] theorem State.markFrameValid_fault : (s.markFrameValid ack).fault = s.fault := rfl
@[simp] theorem State.markFrameValid_csacc : (s.markFrameValid ack).csacc = s.csacc := rfl
@[simp] theorem State.markFrameValid_csIn : (s.markFrameValid ack).csIn = s.csIn := rfl
@[simp] theorem State.markFrameValid_txNode : (s.markFrameValid ack).txNode = s.txNode := rfl
@[simp] theorem State.markFrameValid_txObj : (s.markFrameValid ack).txObj = s.txObj := rfl
@[simp] theorem State.markFrameValid_payLen : (s.markFrameValid ack).payLen = s.payLen := rfl
@[simp] theorem State.markFrameValid_txLen : (s.markFrameValid ack).txLen = s.txLen := rfl
@[simp] theorem State.markFrameValid_txCs : (s.markFrameValid ack).txCs = s.txCs := rfl
@[simp] theorem State.markFrameValid_rxLen : (s.markFrameValid ack).rxLen = s.rxLen := rfl
@[simp] theorem State.markFrameValid_rxPlen : (s.markFrameValid ack).rxPlen = s.rxPlen := rfl
@[simp] theorem State.markFrameValid_rxCscalc : (s.markFrameValid ack).rxCscalc = s.rxCscalc := rfl
@[simp] theorem State.markFrameValid_rxCsrecv : (s.markFrameValid ack).rxCsrecv = s.rxCsrecv := rfl
@[simp] theorem State.markFrameValid_fldOff : (s.markFrameValid ack).fldOff = s.fldOff := rfl
@[simp] theorem State.markFrameValid_raw16 : (s.markFrameValid ack).raw16 = s.raw16 := rfl
@[simp] theorem State.markFrameValid_fldW32 : (s.markFrameValid ack).fldW32 = s.fldW32 := rfl
@[simp] theorem State.markFrameValid_phys : (s.markFrameValid ack).phys = s.phys := rfl
@[simp] theorem State.markFrameValid_calV : (s.markFrameValid ack).calV = s.calV := rfl
@[simp] theorem State.markFrameValid_calI : (s.markFrameValid ack).calI = s.calI := rfl
@[simp] theorem State.markFrameValid_pay : (s.markFrameValid ack).pay = s.pay := rfl
@[simp] theorem State.markFrameValid_tx : (s.markFrameValid ack).tx = s.tx := rfl
@[simp] theorem State.markFrameValid_rx : (s.markFrameValid ack).rx = s.rx := rfl
@[simp] theorem State.markFrameValid_params : (s.markFrameValid ack).params = s.params := rfl
@[simp] theorem State.markFrameValid_pending : (s.markFrameValid ack).pending = s.pending := rfl
@[simp] theorem State.markFrameValid_replies : (s.markFrameValid ack).replies = s.replies := rfl
@[simp] theorem State.markFrameValid_owner : (s.markFrameValid ack).owner = s.owner := rfl
@[simp] theorem State.markFrameValid_epoch : (s.markFrameValid ack).epoch = s.epoch := rfl
@[simp] theorem State.markFrameValid_memRead (sp : BufSpace) (i : Nat) : (s.markFrameValid ack).memRead sp i = s.memRead sp i := by
  cases sp <;> rfl
@[simp] theorem State.markFrameValid_bufMem (sp : BufSpace) : (s.markFrameValid ack).bufMem sp = s.bufMem sp := by
  cases sp <;> rfl
end

section
variable (s : State)
@[simp] theorem State.clearDecResults_cmd : s.clearDecResults.cmd = s.cmd := rfl
@[simp] theorem State.clearDecResults_status : s.clearDecResults.status = { s.status with rxValid := false, rxAck := false } := rfl
@[simp] theorem State.clearDecResults_fault : s.clearDecResults.fault = FaultReg.clear := rfl
@[simp] theorem State.clearDecResults_csacc : s.clearDecResults.csacc = s.csacc := rfl
@[simp] theorem State.clearDecResults_csIn : s.clearDecResults.csIn = s.csIn := rfl
@[simp] theorem State.clearDecResults_txNode : s.clearDecResults.txNode = s.txNode := rfl
@[simp] theorem State.clearDecResults_txObj : s.clearDecResults.txObj = s.txObj := rfl
@[simp] theorem State.clearDecResults_payLen : s.clearDecResults.payLen = s.payLen := rfl
@[simp] theorem State.clearDecResults_txLen : s.clearDecResults.txLen = s.txLen := rfl
@[simp] theorem State.clearDecResults_txCs : s.clearDecResults.txCs = s.txCs := rfl
@[simp] theorem State.clearDecResults_rxLen : s.clearDecResults.rxLen = s.rxLen := rfl
@[simp] theorem State.clearDecResults_rxPlen : s.clearDecResults.rxPlen = 0#8 := rfl
@[simp] theorem State.clearDecResults_rxCscalc : s.clearDecResults.rxCscalc = s.rxCscalc := rfl
@[simp] theorem State.clearDecResults_rxCsrecv : s.clearDecResults.rxCsrecv = s.rxCsrecv := rfl
@[simp] theorem State.clearDecResults_fldOff : s.clearDecResults.fldOff = s.fldOff := rfl
@[simp] theorem State.clearDecResults_raw16 : s.clearDecResults.raw16 = s.raw16 := rfl
@[simp] theorem State.clearDecResults_fldW32 : s.clearDecResults.fldW32 = s.fldW32 := rfl
@[simp] theorem State.clearDecResults_phys : s.clearDecResults.phys = s.phys := rfl
@[simp] theorem State.clearDecResults_calV : s.clearDecResults.calV = s.calV := rfl
@[simp] theorem State.clearDecResults_calI : s.clearDecResults.calI = s.calI := rfl
@[simp] theorem State.clearDecResults_pay : s.clearDecResults.pay = s.pay := rfl
@[simp] theorem State.clearDecResults_tx : s.clearDecResults.tx = s.tx := rfl
@[simp] theorem State.clearDecResults_rx : s.clearDecResults.rx = s.rx := rfl
@[simp] theorem State.clearDecResults_params : s.clearDecResults.params = s.params := rfl
@[simp] theorem State.clearDecResults_pending : s.clearDecResults.pending = s.pending := rfl
@[simp] theorem State.clearDecResults_replies : s.clearDecResults.replies = s.replies := rfl
@[simp] theorem State.clearDecResults_owner : s.clearDecResults.owner = s.owner := rfl
@[simp] theorem State.clearDecResults_epoch : s.clearDecResults.epoch = s.epoch := rfl
@[simp] theorem State.clearDecResults_memRead (sp : BufSpace) (i : Nat) : s.clearDecResults.memRead sp i = s.memRead sp i := by
  cases sp <;> rfl
@[simp] theorem State.clearDecResults_bufMem (sp : BufSpace) : s.clearDecResults.bufMem sp = s.bufMem sp := by
  cases sp <;> rfl
end

section
variable (s : State) (c r : Half)
@[simp] theorem State.setSums_cmd : (s.setSums c r).cmd = s.cmd := rfl
@[simp] theorem State.setSums_status : (s.setSums c r).status = s.status := rfl
@[simp] theorem State.setSums_fault : (s.setSums c r).fault = s.fault := rfl
@[simp] theorem State.setSums_csacc : (s.setSums c r).csacc = s.csacc := rfl
@[simp] theorem State.setSums_csIn : (s.setSums c r).csIn = s.csIn := rfl
@[simp] theorem State.setSums_txNode : (s.setSums c r).txNode = s.txNode := rfl
@[simp] theorem State.setSums_txObj : (s.setSums c r).txObj = s.txObj := rfl
@[simp] theorem State.setSums_payLen : (s.setSums c r).payLen = s.payLen := rfl
@[simp] theorem State.setSums_txLen : (s.setSums c r).txLen = s.txLen := rfl
@[simp] theorem State.setSums_txCs : (s.setSums c r).txCs = s.txCs := rfl
@[simp] theorem State.setSums_rxLen : (s.setSums c r).rxLen = s.rxLen := rfl
@[simp] theorem State.setSums_rxPlen : (s.setSums c r).rxPlen = s.rxPlen := rfl
@[simp] theorem State.setSums_rxCscalc : (s.setSums c r).rxCscalc = c := rfl
@[simp] theorem State.setSums_rxCsrecv : (s.setSums c r).rxCsrecv = r := rfl
@[simp] theorem State.setSums_fldOff : (s.setSums c r).fldOff = s.fldOff := rfl
@[simp] theorem State.setSums_raw16 : (s.setSums c r).raw16 = s.raw16 := rfl
@[simp] theorem State.setSums_fldW32 : (s.setSums c r).fldW32 = s.fldW32 := rfl
@[simp] theorem State.setSums_phys : (s.setSums c r).phys = s.phys := rfl
@[simp] theorem State.setSums_calV : (s.setSums c r).calV = s.calV := rfl
@[simp] theorem State.setSums_calI : (s.setSums c r).calI = s.calI := rfl
@[simp] theorem State.setSums_pay : (s.setSums c r).pay = s.pay := rfl
@[simp] theorem State.setSums_tx : (s.setSums c r).tx = s.tx := rfl
@[simp] theorem State.setSums_rx : (s.setSums c r).rx = s.rx := rfl
@[simp] theorem State.setSums_params : (s.setSums c r).params = s.params := rfl
@[simp] theorem State.setSums_pending : (s.setSums c r).pending = s.pending := rfl
@[simp] theorem State.setSums_replies : (s.setSums c r).replies = s.replies := rfl
@[simp] theorem State.setSums_owner : (s.setSums c r).owner = s.owner := rfl
@[simp] theorem State.setSums_epoch : (s.setSums c r).epoch = s.epoch := rfl
@[simp] theorem State.setSums_memRead (sp : BufSpace) (i : Nat) : (s.setSums c r).memRead sp i = s.memRead sp i := by
  cases sp <;> rfl
@[simp] theorem State.setSums_bufMem (sp : BufSpace) : (s.setSums c r).bufMem sp = s.bufMem sp := by
  cases sp <;> rfl
end

section
variable (s : State) (v : Half)
@[simp] theorem State.setCsacc_cmd : (s.setCsacc v).cmd = s.cmd := rfl
@[simp] theorem State.setCsacc_status : (s.setCsacc v).status = s.status := rfl
@[simp] theorem State.setCsacc_fault : (s.setCsacc v).fault = s.fault := rfl
@[simp] theorem State.setCsacc_csacc : (s.setCsacc v).csacc = v := rfl
@[simp] theorem State.setCsacc_csIn : (s.setCsacc v).csIn = s.csIn := rfl
@[simp] theorem State.setCsacc_txNode : (s.setCsacc v).txNode = s.txNode := rfl
@[simp] theorem State.setCsacc_txObj : (s.setCsacc v).txObj = s.txObj := rfl
@[simp] theorem State.setCsacc_payLen : (s.setCsacc v).payLen = s.payLen := rfl
@[simp] theorem State.setCsacc_txLen : (s.setCsacc v).txLen = s.txLen := rfl
@[simp] theorem State.setCsacc_txCs : (s.setCsacc v).txCs = s.txCs := rfl
@[simp] theorem State.setCsacc_rxLen : (s.setCsacc v).rxLen = s.rxLen := rfl
@[simp] theorem State.setCsacc_rxPlen : (s.setCsacc v).rxPlen = s.rxPlen := rfl
@[simp] theorem State.setCsacc_rxCscalc : (s.setCsacc v).rxCscalc = s.rxCscalc := rfl
@[simp] theorem State.setCsacc_rxCsrecv : (s.setCsacc v).rxCsrecv = s.rxCsrecv := rfl
@[simp] theorem State.setCsacc_fldOff : (s.setCsacc v).fldOff = s.fldOff := rfl
@[simp] theorem State.setCsacc_raw16 : (s.setCsacc v).raw16 = s.raw16 := rfl
@[simp] theorem State.setCsacc_fldW32 : (s.setCsacc v).fldW32 = s.fldW32 := rfl
@[simp] theorem State.setCsacc_phys : (s.setCsacc v).phys = s.phys := rfl
@[simp] theorem State.setCsacc_calV : (s.setCsacc v).calV = s.calV := rfl
@[simp] theorem State.setCsacc_calI : (s.setCsacc v).calI = s.calI := rfl
@[simp] theorem State.setCsacc_pay : (s.setCsacc v).pay = s.pay := rfl
@[simp] theorem State.setCsacc_tx : (s.setCsacc v).tx = s.tx := rfl
@[simp] theorem State.setCsacc_rx : (s.setCsacc v).rx = s.rx := rfl
@[simp] theorem State.setCsacc_params : (s.setCsacc v).params = s.params := rfl
@[simp] theorem State.setCsacc_pending : (s.setCsacc v).pending = s.pending := rfl
@[simp] theorem State.setCsacc_replies : (s.setCsacc v).replies = s.replies := rfl
@[simp] theorem State.setCsacc_owner : (s.setCsacc v).owner = s.owner := rfl
@[simp] theorem State.setCsacc_epoch : (s.setCsacc v).epoch = s.epoch := rfl
@[simp] theorem State.setCsacc_memRead (sp : BufSpace) (i : Nat) : (s.setCsacc v).memRead sp i = s.memRead sp i := by
  cases sp <;> rfl
@[simp] theorem State.setCsacc_bufMem (sp : BufSpace) : (s.setCsacc v).bufMem sp = s.bufMem sp := by
  cases sp <;> rfl
end

section
variable (s : State) (len : BitVec 5) (cs : Half)
@[simp] theorem State.setTxResult_cmd : (s.setTxResult len cs).cmd = s.cmd := rfl
@[simp] theorem State.setTxResult_status : (s.setTxResult len cs).status = s.status := rfl
@[simp] theorem State.setTxResult_fault : (s.setTxResult len cs).fault = s.fault := rfl
@[simp] theorem State.setTxResult_csacc : (s.setTxResult len cs).csacc = s.csacc := rfl
@[simp] theorem State.setTxResult_csIn : (s.setTxResult len cs).csIn = s.csIn := rfl
@[simp] theorem State.setTxResult_txNode : (s.setTxResult len cs).txNode = s.txNode := rfl
@[simp] theorem State.setTxResult_txObj : (s.setTxResult len cs).txObj = s.txObj := rfl
@[simp] theorem State.setTxResult_payLen : (s.setTxResult len cs).payLen = s.payLen := rfl
@[simp] theorem State.setTxResult_txLen : (s.setTxResult len cs).txLen = len := rfl
@[simp] theorem State.setTxResult_txCs : (s.setTxResult len cs).txCs = cs := rfl
@[simp] theorem State.setTxResult_rxLen : (s.setTxResult len cs).rxLen = s.rxLen := rfl
@[simp] theorem State.setTxResult_rxPlen : (s.setTxResult len cs).rxPlen = s.rxPlen := rfl
@[simp] theorem State.setTxResult_rxCscalc : (s.setTxResult len cs).rxCscalc = s.rxCscalc := rfl
@[simp] theorem State.setTxResult_rxCsrecv : (s.setTxResult len cs).rxCsrecv = s.rxCsrecv := rfl
@[simp] theorem State.setTxResult_fldOff : (s.setTxResult len cs).fldOff = s.fldOff := rfl
@[simp] theorem State.setTxResult_raw16 : (s.setTxResult len cs).raw16 = s.raw16 := rfl
@[simp] theorem State.setTxResult_fldW32 : (s.setTxResult len cs).fldW32 = s.fldW32 := rfl
@[simp] theorem State.setTxResult_phys : (s.setTxResult len cs).phys = s.phys := rfl
@[simp] theorem State.setTxResult_calV : (s.setTxResult len cs).calV = s.calV := rfl
@[simp] theorem State.setTxResult_calI : (s.setTxResult len cs).calI = s.calI := rfl
@[simp] theorem State.setTxResult_pay : (s.setTxResult len cs).pay = s.pay := rfl
@[simp] theorem State.setTxResult_tx : (s.setTxResult len cs).tx = s.tx := rfl
@[simp] theorem State.setTxResult_rx : (s.setTxResult len cs).rx = s.rx := rfl
@[simp] theorem State.setTxResult_params : (s.setTxResult len cs).params = s.params := rfl
@[simp] theorem State.setTxResult_pending : (s.setTxResult len cs).pending = s.pending := rfl
@[simp] theorem State.setTxResult_replies : (s.setTxResult len cs).replies = s.replies := rfl
@[simp] theorem State.setTxResult_owner : (s.setTxResult len cs).owner = s.owner := rfl
@[simp] theorem State.setTxResult_epoch : (s.setTxResult len cs).epoch = s.epoch := rfl
@[simp] theorem State.setTxResult_memRead (sp : BufSpace) (i : Nat) : (s.setTxResult len cs).memRead sp i = s.memRead sp i := by
  cases sp <;> rfl
@[simp] theorem State.setTxResult_bufMem (sp : BufSpace) : (s.setTxResult len cs).bufMem sp = s.bufMem sp := by
  cases sp <;> rfl
end

section
variable (s : State) (n : BitVec 5)
@[simp] theorem State.setPayLen_cmd : (s.setPayLen n).cmd = s.cmd := rfl
@[simp] theorem State.setPayLen_status : (s.setPayLen n).status = s.status := rfl
@[simp] theorem State.setPayLen_fault : (s.setPayLen n).fault = s.fault := rfl
@[simp] theorem State.setPayLen_csacc : (s.setPayLen n).csacc = s.csacc := rfl
@[simp] theorem State.setPayLen_csIn : (s.setPayLen n).csIn = s.csIn := rfl
@[simp] theorem State.setPayLen_txNode : (s.setPayLen n).txNode = s.txNode := rfl
@[simp] theorem State.setPayLen_txObj : (s.setPayLen n).txObj = s.txObj := rfl
@[simp] theorem State.setPayLen_payLen : (s.setPayLen n).payLen = n := rfl
@[simp] theorem State.setPayLen_txLen : (s.setPayLen n).txLen = s.txLen := rfl
@[simp] theorem State.setPayLen_txCs : (s.setPayLen n).txCs = s.txCs := rfl
@[simp] theorem State.setPayLen_rxLen : (s.setPayLen n).rxLen = s.rxLen := rfl
@[simp] theorem State.setPayLen_rxPlen : (s.setPayLen n).rxPlen = s.rxPlen := rfl
@[simp] theorem State.setPayLen_rxCscalc : (s.setPayLen n).rxCscalc = s.rxCscalc := rfl
@[simp] theorem State.setPayLen_rxCsrecv : (s.setPayLen n).rxCsrecv = s.rxCsrecv := rfl
@[simp] theorem State.setPayLen_fldOff : (s.setPayLen n).fldOff = s.fldOff := rfl
@[simp] theorem State.setPayLen_raw16 : (s.setPayLen n).raw16 = s.raw16 := rfl
@[simp] theorem State.setPayLen_fldW32 : (s.setPayLen n).fldW32 = s.fldW32 := rfl
@[simp] theorem State.setPayLen_phys : (s.setPayLen n).phys = s.phys := rfl
@[simp] theorem State.setPayLen_calV : (s.setPayLen n).calV = s.calV := rfl
@[simp] theorem State.setPayLen_calI : (s.setPayLen n).calI = s.calI := rfl
@[simp] theorem State.setPayLen_pay : (s.setPayLen n).pay = s.pay := rfl
@[simp] theorem State.setPayLen_tx : (s.setPayLen n).tx = s.tx := rfl
@[simp] theorem State.setPayLen_rx : (s.setPayLen n).rx = s.rx := rfl
@[simp] theorem State.setPayLen_params : (s.setPayLen n).params = s.params := rfl
@[simp] theorem State.setPayLen_pending : (s.setPayLen n).pending = s.pending := rfl
@[simp] theorem State.setPayLen_replies : (s.setPayLen n).replies = s.replies := rfl
@[simp] theorem State.setPayLen_owner : (s.setPayLen n).owner = s.owner := rfl
@[simp] theorem State.setPayLen_epoch : (s.setPayLen n).epoch = s.epoch := rfl
@[simp] theorem State.setPayLen_memRead (sp : BufSpace) (i : Nat) : (s.setPayLen n).memRead sp i = s.memRead sp i := by
  cases sp <;> rfl
@[simp] theorem State.setPayLen_bufMem (sp : BufSpace) : (s.setPayLen n).bufMem sp = s.bufMem sp := by
  cases sp <;> rfl
end

section
variable (s : State) (v : Half)
@[simp] theorem State.setRaw16_cmd : (s.setRaw16 v).cmd = s.cmd := rfl
@[simp] theorem State.setRaw16_status : (s.setRaw16 v).status = s.status := rfl
@[simp] theorem State.setRaw16_fault : (s.setRaw16 v).fault = s.fault := rfl
@[simp] theorem State.setRaw16_csacc : (s.setRaw16 v).csacc = s.csacc := rfl
@[simp] theorem State.setRaw16_csIn : (s.setRaw16 v).csIn = s.csIn := rfl
@[simp] theorem State.setRaw16_txNode : (s.setRaw16 v).txNode = s.txNode := rfl
@[simp] theorem State.setRaw16_txObj : (s.setRaw16 v).txObj = s.txObj := rfl
@[simp] theorem State.setRaw16_payLen : (s.setRaw16 v).payLen = s.payLen := rfl
@[simp] theorem State.setRaw16_txLen : (s.setRaw16 v).txLen = s.txLen := rfl
@[simp] theorem State.setRaw16_txCs : (s.setRaw16 v).txCs = s.txCs := rfl
@[simp] theorem State.setRaw16_rxLen : (s.setRaw16 v).rxLen = s.rxLen := rfl
@[simp] theorem State.setRaw16_rxPlen : (s.setRaw16 v).rxPlen = s.rxPlen := rfl
@[simp] theorem State.setRaw16_rxCscalc : (s.setRaw16 v).rxCscalc = s.rxCscalc := rfl
@[simp] theorem State.setRaw16_rxCsrecv : (s.setRaw16 v).rxCsrecv = s.rxCsrecv := rfl
@[simp] theorem State.setRaw16_fldOff : (s.setRaw16 v).fldOff = s.fldOff := rfl
@[simp] theorem State.setRaw16_raw16 : (s.setRaw16 v).raw16 = v := rfl
@[simp] theorem State.setRaw16_fldW32 : (s.setRaw16 v).fldW32 = s.fldW32 := rfl
@[simp] theorem State.setRaw16_phys : (s.setRaw16 v).phys = s.phys := rfl
@[simp] theorem State.setRaw16_calV : (s.setRaw16 v).calV = s.calV := rfl
@[simp] theorem State.setRaw16_calI : (s.setRaw16 v).calI = s.calI := rfl
@[simp] theorem State.setRaw16_pay : (s.setRaw16 v).pay = s.pay := rfl
@[simp] theorem State.setRaw16_tx : (s.setRaw16 v).tx = s.tx := rfl
@[simp] theorem State.setRaw16_rx : (s.setRaw16 v).rx = s.rx := rfl
@[simp] theorem State.setRaw16_params : (s.setRaw16 v).params = s.params := rfl
@[simp] theorem State.setRaw16_pending : (s.setRaw16 v).pending = s.pending := rfl
@[simp] theorem State.setRaw16_replies : (s.setRaw16 v).replies = s.replies := rfl
@[simp] theorem State.setRaw16_owner : (s.setRaw16 v).owner = s.owner := rfl
@[simp] theorem State.setRaw16_epoch : (s.setRaw16 v).epoch = s.epoch := rfl
@[simp] theorem State.setRaw16_memRead (sp : BufSpace) (i : Nat) : (s.setRaw16 v).memRead sp i = s.memRead sp i := by
  cases sp <;> rfl
@[simp] theorem State.setRaw16_bufMem (sp : BufSpace) : (s.setRaw16 v).bufMem sp = s.bufMem sp := by
  cases sp <;> rfl
end

section
variable (s : State) (v : Word)
@[simp] theorem State.setFldW32_cmd : (s.setFldW32 v).cmd = s.cmd := rfl
@[simp] theorem State.setFldW32_status : (s.setFldW32 v).status = s.status := rfl
@[simp] theorem State.setFldW32_fault : (s.setFldW32 v).fault = s.fault := rfl
@[simp] theorem State.setFldW32_csacc : (s.setFldW32 v).csacc = s.csacc := rfl
@[simp] theorem State.setFldW32_csIn : (s.setFldW32 v).csIn = s.csIn := rfl
@[simp] theorem State.setFldW32_txNode : (s.setFldW32 v).txNode = s.txNode := rfl
@[simp] theorem State.setFldW32_txObj : (s.setFldW32 v).txObj = s.txObj := rfl
@[simp] theorem State.setFldW32_payLen : (s.setFldW32 v).payLen = s.payLen := rfl
@[simp] theorem State.setFldW32_txLen : (s.setFldW32 v).txLen = s.txLen := rfl
@[simp] theorem State.setFldW32_txCs : (s.setFldW32 v).txCs = s.txCs := rfl
@[simp] theorem State.setFldW32_rxLen : (s.setFldW32 v).rxLen = s.rxLen := rfl
@[simp] theorem State.setFldW32_rxPlen : (s.setFldW32 v).rxPlen = s.rxPlen := rfl
@[simp] theorem State.setFldW32_rxCscalc : (s.setFldW32 v).rxCscalc = s.rxCscalc := rfl
@[simp] theorem State.setFldW32_rxCsrecv : (s.setFldW32 v).rxCsrecv = s.rxCsrecv := rfl
@[simp] theorem State.setFldW32_fldOff : (s.setFldW32 v).fldOff = s.fldOff := rfl
@[simp] theorem State.setFldW32_raw16 : (s.setFldW32 v).raw16 = s.raw16 := rfl
@[simp] theorem State.setFldW32_fldW32 : (s.setFldW32 v).fldW32 = v := rfl
@[simp] theorem State.setFldW32_phys : (s.setFldW32 v).phys = s.phys := rfl
@[simp] theorem State.setFldW32_calV : (s.setFldW32 v).calV = s.calV := rfl
@[simp] theorem State.setFldW32_calI : (s.setFldW32 v).calI = s.calI := rfl
@[simp] theorem State.setFldW32_pay : (s.setFldW32 v).pay = s.pay := rfl
@[simp] theorem State.setFldW32_tx : (s.setFldW32 v).tx = s.tx := rfl
@[simp] theorem State.setFldW32_rx : (s.setFldW32 v).rx = s.rx := rfl
@[simp] theorem State.setFldW32_params : (s.setFldW32 v).params = s.params := rfl
@[simp] theorem State.setFldW32_pending : (s.setFldW32 v).pending = s.pending := rfl
@[simp] theorem State.setFldW32_replies : (s.setFldW32 v).replies = s.replies := rfl
@[simp] theorem State.setFldW32_owner : (s.setFldW32 v).owner = s.owner := rfl
@[simp] theorem State.setFldW32_epoch : (s.setFldW32 v).epoch = s.epoch := rfl
@[simp] theorem State.setFldW32_memRead (sp : BufSpace) (i : Nat) : (s.setFldW32 v).memRead sp i = s.memRead sp i := by
  cases sp <;> rfl
@[simp] theorem State.setFldW32_bufMem (sp : BufSpace) : (s.setFldW32 v).bufMem sp = s.bufMem sp := by
  cases sp <;> rfl
end

section
variable (s : State) (v : Word)
@[simp] theorem State.setPhys_cmd : (s.setPhys v).cmd = s.cmd := rfl
@[simp] theorem State.setPhys_status : (s.setPhys v).status = s.status := rfl
@[simp] theorem State.setPhys_fault : (s.setPhys v).fault = s.fault := rfl
@[simp] theorem State.setPhys_csacc : (s.setPhys v).csacc = s.csacc := rfl
@[simp] theorem State.setPhys_csIn : (s.setPhys v).csIn = s.csIn := rfl
@[simp] theorem State.setPhys_txNode : (s.setPhys v).txNode = s.txNode := rfl
@[simp] theorem State.setPhys_txObj : (s.setPhys v).txObj = s.txObj := rfl
@[simp] theorem State.setPhys_payLen : (s.setPhys v).payLen = s.payLen := rfl
@[simp] theorem State.setPhys_txLen : (s.setPhys v).txLen = s.txLen := rfl
@[simp] theorem State.setPhys_txCs : (s.setPhys v).txCs = s.txCs := rfl
@[simp] theorem State.setPhys_rxLen : (s.setPhys v).rxLen = s.rxLen := rfl
@[simp] theorem State.setPhys_rxPlen : (s.setPhys v).rxPlen = s.rxPlen := rfl
@[simp] theorem State.setPhys_rxCscalc : (s.setPhys v).rxCscalc = s.rxCscalc := rfl
@[simp] theorem State.setPhys_rxCsrecv : (s.setPhys v).rxCsrecv = s.rxCsrecv := rfl
@[simp] theorem State.setPhys_fldOff : (s.setPhys v).fldOff = s.fldOff := rfl
@[simp] theorem State.setPhys_raw16 : (s.setPhys v).raw16 = s.raw16 := rfl
@[simp] theorem State.setPhys_fldW32 : (s.setPhys v).fldW32 = s.fldW32 := rfl
@[simp] theorem State.setPhys_phys : (s.setPhys v).phys = v := rfl
@[simp] theorem State.setPhys_calV : (s.setPhys v).calV = s.calV := rfl
@[simp] theorem State.setPhys_calI : (s.setPhys v).calI = s.calI := rfl
@[simp] theorem State.setPhys_pay : (s.setPhys v).pay = s.pay := rfl
@[simp] theorem State.setPhys_tx : (s.setPhys v).tx = s.tx := rfl
@[simp] theorem State.setPhys_rx : (s.setPhys v).rx = s.rx := rfl
@[simp] theorem State.setPhys_params : (s.setPhys v).params = s.params := rfl
@[simp] theorem State.setPhys_pending : (s.setPhys v).pending = s.pending := rfl
@[simp] theorem State.setPhys_replies : (s.setPhys v).replies = s.replies := rfl
@[simp] theorem State.setPhys_owner : (s.setPhys v).owner = s.owner := rfl
@[simp] theorem State.setPhys_epoch : (s.setPhys v).epoch = s.epoch := rfl
@[simp] theorem State.setPhys_memRead (sp : BufSpace) (i : Nat) : (s.setPhys v).memRead sp i = s.memRead sp i := by
  cases sp <;> rfl
@[simp] theorem State.setPhys_bufMem (sp : BufSpace) : (s.setPhys v).bufMem sp = s.bufMem sp := by
  cases sp <;> rfl
end

section
variable (s : State) (f : FaultReg)
@[simp] theorem State.setFault_cmd : (s.setFault f).cmd = s.cmd := rfl
@[simp] theorem State.setFault_status : (s.setFault f).status = s.status := rfl
@[simp] theorem State.setFault_fault : (s.setFault f).fault = f := rfl
@[simp] theorem State.setFault_csacc : (s.setFault f).csacc = s.csacc := rfl
@[simp] theorem State.setFault_csIn : (s.setFault f).csIn = s.csIn := rfl
@[simp] theorem State.setFault_txNode : (s.setFault f).txNode = s.txNode := rfl
@[simp] theorem State.setFault_txObj : (s.setFault f).txObj = s.txObj := rfl
@[simp] theorem State.setFault_payLen : (s.setFault f).payLen = s.payLen := rfl
@[simp] theorem State.setFault_txLen : (s.setFault f).txLen = s.txLen := rfl
@[simp] theorem State.setFault_txCs : (s.setFault f).txCs = s.txCs := rfl
@[simp] theorem State.setFault_rxLen : (s.setFault f).rxLen = s.rxLen := rfl
@[simp] theorem State.setFault_rxPlen : (s.setFault f).rxPlen = s.rxPlen := rfl
@[simp] theorem State.setFault_rxCscalc : (s.setFault f).rxCscalc = s.rxCscalc := rfl
@[simp] theorem State.setFault_rxCsrecv : (s.setFault f).rxCsrecv = s.rxCsrecv := rfl
@[simp] theorem State.setFault_fldOff : (s.setFault f).fldOff = s.fldOff := rfl
@[simp] theorem State.setFault_raw16 : (s.setFault f).raw16 = s.raw16 := rfl
@[simp] theorem State.setFault_fldW32 : (s.setFault f).fldW32 = s.fldW32 := rfl
@[simp] theorem State.setFault_phys : (s.setFault f).phys = s.phys := rfl
@[simp] theorem State.setFault_calV : (s.setFault f).calV = s.calV := rfl
@[simp] theorem State.setFault_calI : (s.setFault f).calI = s.calI := rfl
@[simp] theorem State.setFault_pay : (s.setFault f).pay = s.pay := rfl
@[simp] theorem State.setFault_tx : (s.setFault f).tx = s.tx := rfl
@[simp] theorem State.setFault_rx : (s.setFault f).rx = s.rx := rfl
@[simp] theorem State.setFault_params : (s.setFault f).params = s.params := rfl
@[simp] theorem State.setFault_pending : (s.setFault f).pending = s.pending := rfl
@[simp] theorem State.setFault_replies : (s.setFault f).replies = s.replies := rfl
@[simp] theorem State.setFault_owner : (s.setFault f).owner = s.owner := rfl
@[simp] theorem State.setFault_epoch : (s.setFault f).epoch = s.epoch := rfl
@[simp] theorem State.setFault_memRead (sp : BufSpace) (i : Nat) : (s.setFault f).memRead sp i = s.memRead sp i := by
  cases sp <;> rfl
@[simp] theorem State.setFault_bufMem (sp : BufSpace) : (s.setFault f).bufMem sp = s.bufMem sp := by
  cases sp <;> rfl
end

section
variable (s : State) (n : Byte)
@[simp] theorem State.setRxPlen_cmd : (s.setRxPlen n).cmd = s.cmd := rfl
@[simp] theorem State.setRxPlen_status : (s.setRxPlen n).status = s.status := rfl
@[simp] theorem State.setRxPlen_fault : (s.setRxPlen n).fault = s.fault := rfl
@[simp] theorem State.setRxPlen_csacc : (s.setRxPlen n).csacc = s.csacc := rfl
@[simp] theorem State.setRxPlen_csIn : (s.setRxPlen n).csIn = s.csIn := rfl
@[simp] theorem State.setRxPlen_txNode : (s.setRxPlen n).txNode = s.txNode := rfl
@[simp] theorem State.setRxPlen_txObj : (s.setRxPlen n).txObj = s.txObj := rfl
@[simp] theorem State.setRxPlen_payLen : (s.setRxPlen n).payLen = s.payLen := rfl
@[simp] theorem State.setRxPlen_txLen : (s.setRxPlen n).txLen = s.txLen := rfl
@[simp] theorem State.setRxPlen_txCs : (s.setRxPlen n).txCs = s.txCs := rfl
@[simp] theorem State.setRxPlen_rxLen : (s.setRxPlen n).rxLen = s.rxLen := rfl
@[simp] theorem State.setRxPlen_rxPlen : (s.setRxPlen n).rxPlen = n := rfl
@[simp] theorem State.setRxPlen_rxCscalc : (s.setRxPlen n).rxCscalc = s.rxCscalc := rfl
@[simp] theorem State.setRxPlen_rxCsrecv : (s.setRxPlen n).rxCsrecv = s.rxCsrecv := rfl
@[simp] theorem State.setRxPlen_fldOff : (s.setRxPlen n).fldOff = s.fldOff := rfl
@[simp] theorem State.setRxPlen_raw16 : (s.setRxPlen n).raw16 = s.raw16 := rfl
@[simp] theorem State.setRxPlen_fldW32 : (s.setRxPlen n).fldW32 = s.fldW32 := rfl
@[simp] theorem State.setRxPlen_phys : (s.setRxPlen n).phys = s.phys := rfl
@[simp] theorem State.setRxPlen_calV : (s.setRxPlen n).calV = s.calV := rfl
@[simp] theorem State.setRxPlen_calI : (s.setRxPlen n).calI = s.calI := rfl
@[simp] theorem State.setRxPlen_pay : (s.setRxPlen n).pay = s.pay := rfl
@[simp] theorem State.setRxPlen_tx : (s.setRxPlen n).tx = s.tx := rfl
@[simp] theorem State.setRxPlen_rx : (s.setRxPlen n).rx = s.rx := rfl
@[simp] theorem State.setRxPlen_params : (s.setRxPlen n).params = s.params := rfl
@[simp] theorem State.setRxPlen_pending : (s.setRxPlen n).pending = s.pending := rfl
@[simp] theorem State.setRxPlen_replies : (s.setRxPlen n).replies = s.replies := rfl
@[simp] theorem State.setRxPlen_owner : (s.setRxPlen n).owner = s.owner := rfl
@[simp] theorem State.setRxPlen_epoch : (s.setRxPlen n).epoch = s.epoch := rfl
@[simp] theorem State.setRxPlen_memRead (sp : BufSpace) (i : Nat) : (s.setRxPlen n).memRead sp i = s.memRead sp i := by
  cases sp <;> rfl
@[simp] theorem State.setRxPlen_bufMem (sp : BufSpace) : (s.setRxPlen n).bufMem sp = s.bufMem sp := by
  cases sp <;> rfl
end

section
variable (s : State)
@[simp] theorem State.lockCalibration_cmd : s.lockCalibration.cmd = s.cmd := rfl
@[simp] theorem State.lockCalibration_status : s.lockCalibration.status = { s.status with calLock := true } := rfl
@[simp] theorem State.lockCalibration_fault : s.lockCalibration.fault = s.fault := rfl
@[simp] theorem State.lockCalibration_csacc : s.lockCalibration.csacc = s.csacc := rfl
@[simp] theorem State.lockCalibration_csIn : s.lockCalibration.csIn = s.csIn := rfl
@[simp] theorem State.lockCalibration_txNode : s.lockCalibration.txNode = s.txNode := rfl
@[simp] theorem State.lockCalibration_txObj : s.lockCalibration.txObj = s.txObj := rfl
@[simp] theorem State.lockCalibration_payLen : s.lockCalibration.payLen = s.payLen := rfl
@[simp] theorem State.lockCalibration_txLen : s.lockCalibration.txLen = s.txLen := rfl
@[simp] theorem State.lockCalibration_txCs : s.lockCalibration.txCs = s.txCs := rfl
@[simp] theorem State.lockCalibration_rxLen : s.lockCalibration.rxLen = s.rxLen := rfl
@[simp] theorem State.lockCalibration_rxPlen : s.lockCalibration.rxPlen = s.rxPlen := rfl
@[simp] theorem State.lockCalibration_rxCscalc : s.lockCalibration.rxCscalc = s.rxCscalc := rfl
@[simp] theorem State.lockCalibration_rxCsrecv : s.lockCalibration.rxCsrecv = s.rxCsrecv := rfl
@[simp] theorem State.lockCalibration_fldOff : s.lockCalibration.fldOff = s.fldOff := rfl
@[simp] theorem State.lockCalibration_raw16 : s.lockCalibration.raw16 = s.raw16 := rfl
@[simp] theorem State.lockCalibration_fldW32 : s.lockCalibration.fldW32 = s.fldW32 := rfl
@[simp] theorem State.lockCalibration_phys : s.lockCalibration.phys = s.phys := rfl
@[simp] theorem State.lockCalibration_calV : s.lockCalibration.calV = s.calV := rfl
@[simp] theorem State.lockCalibration_calI : s.lockCalibration.calI = s.calI := rfl
@[simp] theorem State.lockCalibration_pay : s.lockCalibration.pay = s.pay := rfl
@[simp] theorem State.lockCalibration_tx : s.lockCalibration.tx = s.tx := rfl
@[simp] theorem State.lockCalibration_rx : s.lockCalibration.rx = s.rx := rfl
@[simp] theorem State.lockCalibration_params : s.lockCalibration.params = s.params := rfl
@[simp] theorem State.lockCalibration_pending : s.lockCalibration.pending = s.pending := rfl
@[simp] theorem State.lockCalibration_replies : s.lockCalibration.replies = s.replies := rfl
@[simp] theorem State.lockCalibration_owner : s.lockCalibration.owner = s.owner := rfl
@[simp] theorem State.lockCalibration_epoch : s.lockCalibration.epoch = s.epoch := rfl
@[simp] theorem State.lockCalibration_memRead (sp : BufSpace) (i : Nat) : s.lockCalibration.memRead sp i = s.memRead sp i := by
  cases sp <;> rfl
@[simp] theorem State.lockCalibration_bufMem (sp : BufSpace) : s.lockCalibration.bufMem sp = s.bufMem sp := by
  cases sp <;> rfl
end

section
variable (s : State) (v : Word)
@[simp] theorem State.reply_cmd : (s.reply v).cmd = s.cmd := rfl
@[simp] theorem State.reply_status : (s.reply v).status = s.status := rfl
@[simp] theorem State.reply_fault : (s.reply v).fault = s.fault := rfl
@[simp] theorem State.reply_csacc : (s.reply v).csacc = s.csacc := rfl
@[simp] theorem State.reply_csIn : (s.reply v).csIn = s.csIn := rfl
@[simp] theorem State.reply_txNode : (s.reply v).txNode = s.txNode := rfl
@[simp] theorem State.reply_txObj : (s.reply v).txObj = s.txObj := rfl
@[simp] theorem State.reply_payLen : (s.reply v).payLen = s.payLen := rfl
@[simp] theorem State.reply_txLen : (s.reply v).txLen = s.txLen := rfl
@[simp] theorem State.reply_txCs : (s.reply v).txCs = s.txCs := rfl
@[simp] theorem State.reply_rxLen : (s.reply v).rxLen = s.rxLen := rfl
@[simp] theorem State.reply_rxPlen : (s.reply v).rxPlen = s.rxPlen := rfl
@[simp] theorem State.reply_rxCscalc : (s.reply v).rxCscalc = s.rxCscalc := rfl
@[simp] theorem State.reply_rxCsrecv : (s.reply v).rxCsrecv = s.rxCsrecv := rfl
@[simp] theorem State.reply_fldOff : (s.reply v).fldOff = s.fldOff := rfl
@[simp] theorem State.reply_raw16 : (s.reply v).raw16 = s.raw16 := rfl
@[simp] theorem State.reply_fldW32 : (s.reply v).fldW32 = s.fldW32 := rfl
@[simp] theorem State.reply_phys : (s.reply v).phys = s.phys := rfl
@[simp] theorem State.reply_calV : (s.reply v).calV = s.calV := rfl
@[simp] theorem State.reply_calI : (s.reply v).calI = s.calI := rfl
@[simp] theorem State.reply_pay : (s.reply v).pay = s.pay := rfl
@[simp] theorem State.reply_tx : (s.reply v).tx = s.tx := rfl
@[simp] theorem State.reply_rx : (s.reply v).rx = s.rx := rfl
@[simp] theorem State.reply_params : (s.reply v).params = s.params := rfl
@[simp] theorem State.reply_pending : (s.reply v).pending = s.pending := rfl
@[simp] theorem State.reply_replies : (s.reply v).replies = v :: s.replies := rfl
@[simp] theorem State.reply_owner : (s.reply v).owner = s.owner := rfl
@[simp] theorem State.reply_epoch : (s.reply v).epoch = s.epoch := rfl
@[simp] theorem State.reply_memRead (sp : BufSpace) (i : Nat) : (s.reply v).memRead sp i = s.memRead sp i := by
  cases sp <;> rfl
@[simp] theorem State.reply_bufMem (sp : BufSpace) : (s.reply v).bufMem sp = s.bufMem sp := by
  cases sp <;> rfl
end

section
variable (s : State) (a : Nat)
@[simp] theorem State.claim_cmd : (s.claim a).cmd = s.cmd := rfl
@[simp] theorem State.claim_status : (s.claim a).status = s.status := rfl
@[simp] theorem State.claim_fault : (s.claim a).fault = s.fault := rfl
@[simp] theorem State.claim_csacc : (s.claim a).csacc = s.csacc := rfl
@[simp] theorem State.claim_csIn : (s.claim a).csIn = s.csIn := rfl
@[simp] theorem State.claim_txNode : (s.claim a).txNode = s.txNode := rfl
@[simp] theorem State.claim_txObj : (s.claim a).txObj = s.txObj := rfl
@[simp] theorem State.claim_payLen : (s.claim a).payLen = s.payLen := rfl
@[simp] theorem State.claim_txLen : (s.claim a).txLen = s.txLen := rfl
@[simp] theorem State.claim_txCs : (s.claim a).txCs = s.txCs := rfl
@[simp] theorem State.claim_rxLen : (s.claim a).rxLen = s.rxLen := rfl
@[simp] theorem State.claim_rxPlen : (s.claim a).rxPlen = s.rxPlen := rfl
@[simp] theorem State.claim_rxCscalc : (s.claim a).rxCscalc = s.rxCscalc := rfl
@[simp] theorem State.claim_rxCsrecv : (s.claim a).rxCsrecv = s.rxCsrecv := rfl
@[simp] theorem State.claim_fldOff : (s.claim a).fldOff = s.fldOff := rfl
@[simp] theorem State.claim_raw16 : (s.claim a).raw16 = s.raw16 := rfl
@[simp] theorem State.claim_fldW32 : (s.claim a).fldW32 = s.fldW32 := rfl
@[simp] theorem State.claim_phys : (s.claim a).phys = s.phys := rfl
@[simp] theorem State.claim_calV : (s.claim a).calV = s.calV := rfl
@[simp] theorem State.claim_calI : (s.claim a).calI = s.calI := rfl
@[simp] theorem State.claim_pay : (s.claim a).pay = s.pay := rfl
@[simp] theorem State.claim_tx : (s.claim a).tx = s.tx := rfl
@[simp] theorem State.claim_rx : (s.claim a).rx = s.rx := rfl
@[simp] theorem State.claim_params : (s.claim a).params = s.params := rfl
@[simp] theorem State.claim_pending : (s.claim a).pending = s.pending := rfl
@[simp] theorem State.claim_replies : (s.claim a).replies = s.replies := rfl
@[simp] theorem State.claim_owner : (s.claim a).owner = some a := rfl
@[simp] theorem State.claim_epoch : (s.claim a).epoch = s.epoch := rfl
@[simp] theorem State.claim_memRead (sp : BufSpace) (i : Nat) : (s.claim a).memRead sp i = s.memRead sp i := by
  cases sp <;> rfl
@[simp] theorem State.claim_bufMem (sp : BufSpace) : (s.claim a).bufMem sp = s.bufMem sp := by
  cases sp <;> rfl
end

section
variable (s : State) (sp : BufSpace) (m : Memory)
@[simp] theorem State.setBufMem_cmd : (s.setBufMem sp m).cmd = s.cmd := by cases sp <;> rfl
@[simp] theorem State.setBufMem_status : (s.setBufMem sp m).status = s.status := by cases sp <;> rfl
@[simp] theorem State.setBufMem_fault : (s.setBufMem sp m).fault = s.fault := by cases sp <;> rfl
@[simp] theorem State.setBufMem_csacc : (s.setBufMem sp m).csacc = s.csacc := by cases sp <;> rfl
@[simp] theorem State.setBufMem_csIn : (s.setBufMem sp m).csIn = s.csIn := by cases sp <;> rfl
@[simp] theorem State.setBufMem_txNode : (s.setBufMem sp m).txNode = s.txNode := by cases sp <;> rfl
@[simp] theorem State.setBufMem_txObj : (s.setBufMem sp m).txObj = s.txObj := by cases sp <;> rfl
@[simp] theorem State.setBufMem_payLen : (s.setBufMem sp m).payLen = s.payLen := by cases sp <;> rfl
@[simp] theorem State.setBufMem_txLen : (s.setBufMem sp m).txLen = s.txLen := by cases sp <;> rfl
@[simp] theorem State.setBufMem_txCs : (s.setBufMem sp m).txCs = s.txCs := by cases sp <;> rfl
@[simp] theorem State.setBufMem_rxLen : (s.setBufMem sp m).rxLen = s.rxLen := by cases sp <;> rfl
@[simp] theorem State.setBufMem_rxPlen : (s.setBufMem sp m).rxPlen = s.rxPlen := by cases sp <;> rfl
@[simp] theorem State.setBufMem_rxCscalc : (s.setBufMem sp m).rxCscalc = s.rxCscalc := by cases sp <;> rfl
@[simp] theorem State.setBufMem_rxCsrecv : (s.setBufMem sp m).rxCsrecv = s.rxCsrecv := by cases sp <;> rfl
@[simp] theorem State.setBufMem_fldOff : (s.setBufMem sp m).fldOff = s.fldOff := by cases sp <;> rfl
@[simp] theorem State.setBufMem_raw16 : (s.setBufMem sp m).raw16 = s.raw16 := by cases sp <;> rfl
@[simp] theorem State.setBufMem_fldW32 : (s.setBufMem sp m).fldW32 = s.fldW32 := by cases sp <;> rfl
@[simp] theorem State.setBufMem_phys : (s.setBufMem sp m).phys = s.phys := by cases sp <;> rfl
@[simp] theorem State.setBufMem_calV : (s.setBufMem sp m).calV = s.calV := by cases sp <;> rfl
@[simp] theorem State.setBufMem_calI : (s.setBufMem sp m).calI = s.calI := by cases sp <;> rfl
@[simp] theorem State.setBufMem_params : (s.setBufMem sp m).params = s.params := by cases sp <;> rfl
@[simp] theorem State.setBufMem_pending : (s.setBufMem sp m).pending = s.pending := by cases sp <;> rfl
@[simp] theorem State.setBufMem_replies : (s.setBufMem sp m).replies = s.replies := by cases sp <;> rfl
@[simp] theorem State.setBufMem_owner : (s.setBufMem sp m).owner = s.owner := by cases sp <;> rfl
@[simp] theorem State.setBufMem_epoch : (s.setBufMem sp m).epoch = s.epoch := by cases sp <;> rfl
@[simp] theorem State.setBufMem_bufMem : (s.setBufMem sp m).bufMem sp = m := by cases sp <;> rfl
theorem State.setBufMem_bufMem_ne (sp' : BufSpace) (h : sp' ≠ sp) : (s.setBufMem sp m).bufMem sp' = s.bufMem sp' := by
  cases sp <;> cases sp' <;> first | rfl | exact absurd rfl h
end

section
variable (s : State) (sp : BufSpace) (i : Nat) (b : Byte)
@[simp] theorem State.memWrite_cmd : (s.memWrite sp i b).cmd = s.cmd := by simp [State.memWrite]
@[simp] theorem State.memWrite_status : (s.memWrite sp i b).status = s.status := by simp [State.memWrite]
@[simp] theorem State.memWrite_fault : (s.memWrite sp i b).fault = s.fault := by simp [State.memWrite]
@[simp] theorem State.memWrite_csacc : (s.memWrite sp i b).csacc = s.csacc := by simp [State.memWrite]
@[simp] theorem State.memWrite_csIn : (s.memWrite sp i b).csIn = s.csIn := by simp [State.memWrite]
@[simp] theorem State.memWrite_txNode : (s.memWrite sp i b).txNode = s.txNode := by simp [State.memWrite]
@[simp] theorem State.memWrite_txObj : (s.memWrite sp i b).txObj = s.txObj := by simp [State.memWrite]
@[simp] theorem State.memWrite_payLen : (s.memWrite sp i b).payLen = s.payLen := by simp [State.memWrite]
@[simp] theorem State.memWrite_txLen : (s.memWrite sp i b).txLen = s.txLen := by simp [State.memWrite]
@[simp] theorem State.memWrite_txCs : (s.memWrite sp i b).txCs = s.txCs := by simp [State.memWrite]
@[simp] theorem State.memWrite_rxLen : (s.memWrite sp i b).rxLen = s.rxLen := by simp [State.memWrite]
@[simp] theorem State.memWrite_rxPlen : (s.memWrite sp i b).rxPlen = s.rxPlen := by simp [State.memWrite]
@[simp] theorem State.memWrite_rxCscalc : (s.memWrite sp i b).rxCscalc = s.rxCscalc := by simp [State.memWrite]
@[simp] theorem State.memWrite_rxCsrecv : (s.memWrite sp i b).rxCsrecv = s.rxCsrecv := by simp [State.memWrite]
@[simp] theorem State.memWrite_fldOff : (s.memWrite sp i b).fldOff = s.fldOff := by simp [State.memWrite]
@[simp] theorem State.memWrite_raw16 : (s.memWrite sp i b).raw16 = s.raw16 := by simp [State.memWrite]
@[simp] theorem State.memWrite_fldW32 : (s.memWrite sp i b).fldW32 = s.fldW32 := by simp [State.memWrite]
@[simp] theorem State.memWrite_phys : (s.memWrite sp i b).phys = s.phys := by simp [State.memWrite]
@[simp] theorem State.memWrite_calV : (s.memWrite sp i b).calV = s.calV := by simp [State.memWrite]
@[simp] theorem State.memWrite_calI : (s.memWrite sp i b).calI = s.calI := by simp [State.memWrite]
@[simp] theorem State.memWrite_params : (s.memWrite sp i b).params = s.params := by simp [State.memWrite]
@[simp] theorem State.memWrite_pending : (s.memWrite sp i b).pending = s.pending := by simp [State.memWrite]
@[simp] theorem State.memWrite_replies : (s.memWrite sp i b).replies = s.replies := by simp [State.memWrite]
@[simp] theorem State.memWrite_owner : (s.memWrite sp i b).owner = s.owner := by simp [State.memWrite]
@[simp] theorem State.memWrite_epoch : (s.memWrite sp i b).epoch = s.epoch := by simp [State.memWrite]
end

@[simp] theorem State.memWriteList_cmd (sp : BufSpace) (bs : List Byte) : ∀ (s : State) (i : Nat), (s.memWriteList sp i bs).cmd = s.cmd := by
  induction bs with
  | nil => intro s i; rfl
  | cons b bs ih => intro s i; simp [State.memWriteList, ih]
@[simp] theorem State.memWriteList_status (sp : BufSpace) (bs : List Byte) : ∀ (s : State) (i : Nat), (s.memWriteList sp i bs).status = s.status := by
  induction bs with
  | nil => intro s i; rfl
  | cons b bs ih => intro s i; simp [State.memWriteList, ih]
@[simp] theorem State.memWriteList_fault (sp : BufSpace) (bs : List Byte) : ∀ (s : State) (i : Nat), (s.memWriteList sp i bs).fault = s.fault := by
  induction bs with
  | nil => intro s i; rfl
  | cons b bs ih => intro s i; simp [State.memWriteList, ih]
@[simp] theorem State.memWriteList_csacc (sp : BufSpace) (bs : List Byte) : ∀ (s : State) (i : Nat), (s.memWriteList sp i bs).csacc = s.csacc := by
  induction bs with
  | nil => intro s i; rfl
  | cons b bs ih => intro s i; simp [State.memWriteList, ih]
@[simp] theorem State.memWriteList_csIn (sp : BufSpace) (bs : List Byte) : ∀ (s : State) (i : Nat), (s.memWriteList sp i bs).csIn = s.csIn := by
  induction bs with
  | nil => intro s i; rfl
  | cons b bs ih => intro s i; simp [State.memWriteList, ih]
@[simp] theorem State.memWriteList_txNode (sp : BufSpace) (bs : List Byte) : ∀ (s : State) (i : Nat), (s.memWriteList sp i bs).txNode = s.txNode := by
  induction bs with
  | nil => intro s i; rfl
  | cons b bs ih => intro s i; simp [State.memWriteList, ih]
@[simp] theorem State.memWriteList_txObj (sp : BufSpace) (bs : List Byte) : ∀ (s : State) (i : Nat), (s.memWriteList sp i bs).txObj = s.txObj := by
  induction bs with
  | nil => intro s i; rfl
  | cons b bs ih => intro s i; simp [State.memWriteList, ih]
@[simp] theorem State.memWriteList_payLen (sp : BufSpace) (bs : List Byte) : ∀ (s : State) (i : Nat), (s.memWriteList sp i bs).payLen = s.payLen := by
  induction bs with
  | nil => intro s i; rfl
  | cons b bs ih => intro s i; simp [State.memWriteList, ih]
@[simp] theorem State.memWriteList_txLen (sp : BufSpace) (bs : List Byte) : ∀ (s : State) (i : Nat), (s.memWriteList sp i bs).txLen = s.txLen := by
  induction bs with
  | nil => intro s i; rfl
  | cons b bs ih => intro s i; simp [State.memWriteList, ih]
@[simp] theorem State.memWriteList_txCs (sp : BufSpace) (bs : List Byte) : ∀ (s : State) (i : Nat), (s.memWriteList sp i bs).txCs = s.txCs := by
  induction bs with
  | nil => intro s i; rfl
  | cons b bs ih => intro s i; simp [State.memWriteList, ih]
@[simp] theorem State.memWriteList_rxLen (sp : BufSpace) (bs : List Byte) : ∀ (s : State) (i : Nat), (s.memWriteList sp i bs).rxLen = s.rxLen := by
  induction bs with
  | nil => intro s i; rfl
  | cons b bs ih => intro s i; simp [State.memWriteList, ih]
@[simp] theorem State.memWriteList_rxPlen (sp : BufSpace) (bs : List Byte) : ∀ (s : State) (i : Nat), (s.memWriteList sp i bs).rxPlen = s.rxPlen := by
  induction bs with
  | nil => intro s i; rfl
  | cons b bs ih => intro s i; simp [State.memWriteList, ih]
@[simp] theorem State.memWriteList_rxCscalc (sp : BufSpace) (bs : List Byte) : ∀ (s : State) (i : Nat), (s.memWriteList sp i bs).rxCscalc = s.rxCscalc := by
  induction bs with
  | nil => intro s i; rfl
  | cons b bs ih => intro s i; simp [State.memWriteList, ih]
@[simp] theorem State.memWriteList_rxCsrecv (sp : BufSpace) (bs : List Byte) : ∀ (s : State) (i : Nat), (s.memWriteList sp i bs).rxCsrecv = s.rxCsrecv := by
  induction bs with
  | nil => intro s i; rfl
  | cons b bs ih => intro s i; simp [State.memWriteList, ih]
@[simp] theorem State.memWriteList_fldOff (sp : BufSpace) (bs : List Byte) : ∀ (s : State) (i : Nat), (s.memWriteList sp i bs).fldOff = s.fldOff := by
  induction bs with
  | nil => intro s i; rfl
  | cons b bs ih => intro s i; simp [State.memWriteList, ih]
@[simp] theorem State.memWriteList_raw16 (sp : BufSpace) (bs : List Byte) : ∀ (s : State) (i : Nat), (s.memWriteList sp i bs).raw16 = s.raw16 := by
  induction bs with
  | nil => intro s i; rfl
  | cons b bs ih => intro s i; simp [State.memWriteList, ih]
@[simp] theorem State.memWriteList_fldW32 (sp : BufSpace) (bs : List Byte) : ∀ (s : State) (i : Nat), (s.memWriteList sp i bs).fldW32 = s.fldW32 := by
  induction bs with
  | nil => intro s i; rfl
  | cons b bs ih => intro s i; simp [State.memWriteList, ih]
@[simp] theorem State.memWriteList_phys (sp : BufSpace) (bs : List Byte) : ∀ (s : State) (i : Nat), (s.memWriteList sp i bs).phys = s.phys := by
  induction bs with
  | nil => intro s i; rfl
  | cons b bs ih => intro s i; simp [State.memWriteList, ih]
@[simp] theorem State.memWriteList_calV (sp : BufSpace) (bs : List Byte) : ∀ (s : State) (i : Nat), (s.memWriteList sp i bs).calV = s.calV := by
  induction bs with
  | nil => intro s i; rfl
  | cons b bs ih => intro s i; simp [State.memWriteList, ih]
@[simp] theorem State.memWriteList_calI (sp : BufSpace) (bs : List Byte) : ∀ (s : State) (i : Nat), (s.memWriteList sp i bs).calI = s.calI := by
  induction bs with
  | nil => intro s i; rfl
  | cons b bs ih => intro s i; simp [State.memWriteList, ih]
@[simp] theorem State.memWriteList_params (sp : BufSpace) (bs : List Byte) : ∀ (s : State) (i : Nat), (s.memWriteList sp i bs).params = s.params := by
  induction bs with
  | nil => intro s i; rfl
  | cons b bs ih => intro s i; simp [State.memWriteList, ih]
@[simp] theorem State.memWriteList_pending (sp : BufSpace) (bs : List Byte) : ∀ (s : State) (i : Nat), (s.memWriteList sp i bs).pending = s.pending := by
  induction bs with
  | nil => intro s i; rfl
  | cons b bs ih => intro s i; simp [State.memWriteList, ih]
@[simp] theorem State.memWriteList_replies (sp : BufSpace) (bs : List Byte) : ∀ (s : State) (i : Nat), (s.memWriteList sp i bs).replies = s.replies := by
  induction bs with
  | nil => intro s i; rfl
  | cons b bs ih => intro s i; simp [State.memWriteList, ih]
@[simp] theorem State.memWriteList_owner (sp : BufSpace) (bs : List Byte) : ∀ (s : State) (i : Nat), (s.memWriteList sp i bs).owner = s.owner := by
  induction bs with
  | nil => intro s i; rfl
  | cons b bs ih => intro s i; simp [State.memWriteList, ih]
@[simp] theorem State.memWriteList_epoch (sp : BufSpace) (bs : List Byte) : ∀ (s : State) (i : Nat), (s.memWriteList sp i bs).epoch = s.epoch := by
  induction bs with
  | nil => intro s i; rfl
  | cons b bs ih => intro s i; simp [State.memWriteList, ih]

/-- Writing to one space leaves the listings of the others alone. -/
theorem State.memWrite_bufMem_ne (s : State) (sp sp' : BufSpace) (i : Nat) (b : Byte) (h : sp' ≠ sp) :
    (s.memWrite sp i b).bufMem sp' = s.bufMem sp' :=
  State.setBufMem_bufMem_ne s sp _ sp' h

theorem State.memWriteList_bufMem_ne (sp sp' : BufSpace) (h : sp' ≠ sp) (bs : List Byte) :
    ∀ (s : State) (i : Nat), (s.memWriteList sp i bs).bufMem sp' = s.bufMem sp' := by
  induction bs with
  | nil => intro s i; rfl
  | cons b bs ih => intro s i; rw [State.memWriteList, ih, State.memWrite_bufMem_ne s sp sp' i b h]

/-- Writing a byte sequence changes only the listing of its space. -/
theorem State.memWriteList_eq (sp : BufSpace) (bs : List Byte) :
    ∀ (s : State) (i : Nat), s.memWriteList sp i bs = s.setBufMem sp ((s.memWriteList sp i bs).bufMem sp) := by
  induction bs with
  | nil => intro s i; cases sp <;> rfl
  | cons b bs ih =>
    intro s i
    rw [State.memWriteList, ih]
    cases sp <;> simp [State.memWrite, State.setBufMem, State.bufMem]

end Sys2Proof.Machine
end

