-- ==== Sys2Proof/Laws/Memory.lean ====
section
/-! SUPPORT. The laws of the byte buffers: read after write, and that every operation keeps the canonical form. -/

namespace Sys2Proof.Machine

@[simp] theorem maxPayload_eq : maxPayload = 16 := rfl
@[simp] theorem minFrame_eq : minFrame = 5 := rfl
@[simp] theorem headerLen_eq : headerLen = 3 := rfl
@[simp] theorem trailerLen_eq : trailerLen = 2 := rfl
@[simp] theorem txMax_eq : txMax = 21 := rfl
@[simp] theorem fullScale_eq : fullScale = 25600 := rfl

theorem Memory.read_write_same (m : Memory) (a : Nat) (b : Byte) : Memory.read (Memory.write m a b) a = some b := by
  induction m with
  | nil => simp [Memory.write, Memory.read]
  | cons kc m ih =>
    obtain ⟨k, c⟩ := kc
    simp only [Memory.write]
    split
    · simp [Memory.read]
    · split
      · simp [Memory.read]
      · rename_i h1 h2
        simp only [Memory.read, if_neg (Ne.symm h2), ih]

theorem Memory.read_write_ne (m : Memory) (a a' : Nat) (b : Byte) (h : a' ≠ a) :
    Memory.read (Memory.write m a b) a' = Memory.read m a' := by
  induction m with
  | nil => simp [Memory.write, Memory.read, Ne.symm h]
  | cons kc m ih =>
    obtain ⟨k, c⟩ := kc
    simp only [Memory.write]
    split
    · rw [Memory.read, if_neg (Ne.symm h)]
    · split
      · rename_i h1 h2
        subst h2
        simp [Memory.read, Ne.symm h]
      · simp only [Memory.read, ih]

/-- A write at an address of the space keeps the canonical form. -/
theorem Memory.write_wfFrom (size a : Nat) (b : Byte) (ha : a < size) (m : Memory) :
    ∀ lo, lo ≤ a → Memory.wfFrom size lo m = true → Memory.wfFrom size lo (Memory.write m a b) = true := by
  induction m with
  | nil => intro lo hlo _; simp [Memory.write, Memory.wfFrom, hlo, ha]
  | cons kc m ih =>
    obtain ⟨k, c⟩ := kc
    intro lo hlo h
    simp only [Memory.wfFrom, Bool.and_eq_true, decide_eq_true_eq] at h
    simp only [Memory.write]
    split
    · rename_i h1
      simp only [Memory.wfFrom, Bool.and_eq_true, decide_eq_true_eq]
      exact ⟨⟨hlo, ha⟩, ⟨by omega, h.1.2⟩, h.2⟩
    · split
      · rename_i h1 h2
        subst h2
        simp only [Memory.wfFrom, Bool.and_eq_true, decide_eq_true_eq]
        exact ⟨⟨hlo, ha⟩, h.2⟩
      · rename_i h1 h2
        simp only [Memory.wfFrom, Bool.and_eq_true, decide_eq_true_eq]
        exact ⟨h.1, ih (k + 1) (by omega) h.2⟩

theorem Memory.write_wf (size a : Nat) (b : Byte) (ha : a < size) (m : Memory) (h : Memory.wf size m = true) :
    Memory.wf size (Memory.write m a b) = true :=
  Memory.write_wfFrom size a b ha m 0 (Nat.zero_le a) h

@[simp] theorem Memory.wf_nil (size : Nat) : Memory.wf size [] = true := rfl

theorem State.memRead_memWrite_same (s : State) (sp : BufSpace) (i : Nat) (b : Byte) :
    (s.memWrite sp i b).memRead sp i = b := by
  simp [State.memRead, State.memWrite, Memory.read_write_same]

theorem State.memRead_memWrite_ne (s : State) (sp sp' : BufSpace) (i j : Nat) (b : Byte) (h : ¬(sp' = sp ∧ j = i)) :
    (s.memWrite sp i b).memRead sp' j = s.memRead sp' j := by
  by_cases hs : sp' = sp
  · subst hs
    have hj : j ≠ i := fun e => h ⟨rfl, e⟩
    simp [State.memRead, State.memWrite, Memory.read_write_ne _ _ _ _ hj]
  · simp [State.memRead, State.memWrite_bufMem_ne s sp sp' i b hs]

/-- Outside the written indices every byte reads as before. -/
theorem State.memRead_memWriteList_ne (sp sp' : BufSpace) (j : Nat) (bs : List Byte) :
    ∀ (s : State) (i : Nat), ¬(sp' = sp ∧ i ≤ j ∧ j < i + bs.length) →
      (s.memWriteList sp i bs).memRead sp' j = s.memRead sp' j := by
  induction bs with
  | nil => intro s i _; rfl
  | cons b bs ih =>
    intro s i h
    simp only [List.length_cons] at h
    rw [State.memWriteList, ih _ _ (fun hh => h ⟨hh.1, by omega, by omega⟩)]
    exact State.memRead_memWrite_ne s sp sp' i j b (fun hh => h ⟨hh.1, by omega, by omega⟩)

/-- The written indices read as the sequence. -/
theorem State.memRead_memWriteList (sp : BufSpace) (bs : List Byte) :
    ∀ (s : State) (i k : Nat) (hk : k < bs.length), (s.memWriteList sp i bs).memRead sp (i + k) = bs[k] := by
  induction bs with
  | nil => intro s i k hk; exact absurd hk (Nat.not_lt_zero k)
  | cons b bs ih =>
    intro s i k hk
    rw [State.memWriteList]
    cases k with
    | zero =>
      rw [State.memRead_memWriteList_ne sp sp _ bs _ _ (fun hh => by omega)]
      exact State.memRead_memWrite_same s sp i b
    | succ k =>
      have hk' : k < bs.length := by simpa using hk
      have e : i + (k + 1) = (i + 1) + k := by omega
      rw [e, ih _ _ k hk']
      rfl

@[simp] theorem State.memReadList_length (s : State) (sp : BufSpace) (n : Nat) :
    ∀ i, (s.memReadList sp i n).length = n := by
  induction n with
  | zero => intro i; rfl
  | succ n ih => intro i; simp [State.memReadList, ih]

theorem State.memReadList_getElem (s : State) (sp : BufSpace) (n : Nat) :
    ∀ (i k : Nat) (hk : k < (s.memReadList sp i n).length), (s.memReadList sp i n)[k] = s.memRead sp (i + k) := by
  induction n with
  | zero => intro i k hk; exact absurd hk (Nat.not_lt_zero k)
  | succ n ih =>
    intro i k hk
    cases k with
    | zero => rfl
    | succ k =>
      have e : i + (k + 1) = (i + 1) + k := by omega
      simp only [State.memReadList, List.getElem_cons_succ]
      rw [ih, e]

/-- Two states that agree on the bytes of a range read the same sequence there. -/
theorem State.memReadList_congr (s t : State) (sp sp' : BufSpace) (n : Nat) :
    ∀ i j, (∀ k, k < n → s.memRead sp (i + k) = t.memRead sp' (j + k)) →
      s.memReadList sp i n = t.memReadList sp' j n := by
  induction n with
  | zero => intro i j _; rfl
  | succ n ih =>
    intro i j h
    rw [State.memReadList, State.memReadList, ih (i + 1) (j + 1)]
    · have h0 := h 0 (Nat.zero_lt_succ n)
      simp only [Nat.add_zero] at h0
      rw [h0]
    · intro k hk
      have hk' := h (k + 1) (Nat.succ_lt_succ hk)
      rwa [show i + (k + 1) = i + 1 + k by omega, show j + (k + 1) = j + 1 + k by omega] at hk'

/-- Reading back what was just written gives the sequence. -/
theorem State.memReadList_memWriteList (s : State) (sp : BufSpace) (i : Nat) (bs : List Byte) :
    (s.memWriteList sp i bs).memReadList sp i bs.length = bs := by
  apply List.ext_getElem
  · simp
  · intro k h1 h2
    rw [State.memReadList_getElem, State.memRead_memWriteList]

/-- A byte sequence written inside a space keeps the canonical form of that space. -/
theorem State.memWriteList_wf (sp : BufSpace) (size : Nat) (bs : List Byte) :
    ∀ (s : State) (i : Nat), i + bs.length ≤ size → Memory.wf size (s.bufMem sp) = true →
      Memory.wf size ((s.memWriteList sp i bs).bufMem sp) = true := by
  induction bs with
  | nil => intro s i _ h; exact h
  | cons b bs ih =>
    intro s i hi h
    simp only [List.length_cons] at hi
    rw [State.memWriteList]
    apply ih _ _ (by omega)
    simp only [State.memWrite, State.setBufMem_bufMem]
    exact Memory.write_wf size i b (by omega) _ h

/-- The reset state's buffers have the canonical form. -/
theorem State.reset_memory_wf (size : Nat) (sp : BufSpace) : Memory.wf size (State.reset.bufMem sp) = true := by
  cases sp <;> rfl

/-- So have the buffers that a Reset transaction leaves. -/
theorem State.hardReset_memory_wf (s : State) (size : Nat) (sp : BufSpace) :
    Memory.wf size (s.hardReset.bufMem sp) = true := by
  cases sp <;> rfl

/-- A host buffer write keeps the canonical form of every space. -/
theorem State.bufWrite_wf (s : State) (sp sp' : BufSpace) (i : Nat) (v : Int)
    (h : Memory.wf (s.bufSize sp') (s.bufMem sp') = true) :
    Memory.wf (s.bufSize sp') ((s.bufWrite sp i v).bufMem sp') = true := by
  simp only [State.bufWrite]
  split
  · rename_i hi
    cases sp
    · by_cases e : sp' = .pay
      · subst e
        simp only [State.memWrite, State.setBufMem_bufMem]
        exact Memory.write_wf _ i _ hi _ h
      · simp only [State.memWrite_bufMem_ne s .pay sp' i _ e]
        exact h
    · exact h
    · have e : ∀ t : State, t.clearRxFlags.bufMem sp' = t.bufMem sp' := by intro t; cases sp' <;> rfl
      by_cases e' : sp' = .rx
      · subst e'
        simp only [e, State.memWrite, State.setBufMem_bufMem]
        exact Memory.write_wf _ i _ hi _ h
      · simp only [e, State.memWrite_bufMem_ne s .rx sp' i _ e']
        exact h
  · exact h

end Sys2Proof.Machine
end

