-- ==== Sys2Proof/Laws/Ops.lean ====
section
/-! SUPPORT. For each shared operation, one lemma that says everything it can do. -/

namespace Sys2Proof.Machine

/-- What an encoder command can do. -/
theorem encodeTelegram_cases (k : RequestKind) (s t : State) (h : encodeTelegram k s = .next t) :
    (16 < s.payLen.toNat ∧ t = (s.setTxResult 0#5 0#16).raise .encLength) ∨
    (s.payLen.toNat ≤ 16 ∧ t = (s.buildTelegram k).done) := by
  rw [encodeTelegram] at h
  split at h
  · rename_i hn
    injection h with h
    exact .inl ⟨by simpa using hn, h.symm⟩
  · rename_i hn
    injection h with h
    exact .inr ⟨by simpa using hn, h.symm⟩

/-- The encoder's writes leave everything alone but TXBUF, TX_LEN and TX_CS. -/
theorem State.buildTelegram_eq (s : State) (k : RequestKind) :
    s.buildTelegram k =
      { s with tx := (s.buildTelegram k).tx, txLen := BitVec.ofNat 5 (s.payLen.toNat + 5), txCs := (s.buildTelegram k).txCs } := by
  simp only [State.buildTelegram]
  rw [State.memWriteList_eq, State.memWriteList_eq .tx ([_, _, _] ++ _)]
  simp [State.setBufMem, State.bufMem, State.setTxResult]

/-- The encoder's writes stay inside TXBUF and keep its canonical form. -/
theorem State.buildTelegram_wf (s : State) (k : RequestKind) (hn : s.payLen.toNat ≤ 16) (h : Memory.wf txMax s.tx = true) :
    Memory.wf txMax (s.buildTelegram k).tx = true := by
  have hp : s.payload.length = s.payLen.toNat := State.memReadList_length s .pay s.payLen.toNat 0
  simp only [State.buildTelegram, State.setTxResult_tx]
  refine State.memWriteList_wf .tx txMax _ _ _ ?_ (State.memWriteList_wf .tx txMax _ _ _ ?_ h)
  · simp only [headerLen_eq, txMax_eq, List.length_cons, List.length_nil]; omega
  · simp only [txMax_eq, List.length_append, List.length_cons, List.length_nil, hp]; omega

/-- What DEC can do. -/
theorem execDec_cases (s t : State) (h : execDec s = .next t) :
    (s.params.rxCap < s.frameLen ∧ t = (s.clearDecResults.setSums 0#16 0#16).raise .overrun) ∨
    (s.frameLen ≤ s.params.rxCap ∧ s.frameLen < 5 ∧ t = (s.clearDecResults.setSums 0#16 0#16).raise .truncated) ∨
    (s.frameLen ≤ s.params.rxCap ∧ 5 ≤ s.frameLen ∧
      ∃ c r, c = sum16 (s.rxBytes (s.frameLen - 2)) ∧
        r = be16 (s.memRead .rx (s.frameLen - 2)) (s.memRead .rx (s.frameLen - 1)) ∧
        ((c ≠ r ∧ t = (s.clearDecResults.setSums c r).raise .checksumMismatch) ∨
          (c = r ∧ t = (s.clearDecResults.setSums c r).classifyFrame))) := by
  simp only [execDec] at h
  split at h
  · rename_i h1
    injection h with h
    exact .inl ⟨h1, h.symm⟩
  · rename_i h1
    split at h
    · rename_i h2
      injection h with h
      exact .inr (.inl ⟨by omega, by simpa using h2, h.symm⟩)
    · rename_i h2
      have h5 : 5 ≤ s.frameLen := by simpa using h2
      refine .inr (.inr ⟨by omega, h5, _, _, rfl, rfl, ?_⟩)
      split at h
      · rename_i h3
        injection h with h
        exact .inl ⟨h3, h.symm⟩
      · rename_i h3
        injection h with h
        exact .inr ⟨by simpa using h3, h.symm⟩

/-- What DEC's last part does: the frame is marked valid, and either its fault is recorded or the command is done. -/
theorem State.classifyFrame_cases (s : State) :
    (∃ f, classify (s.memRead .rx 2) (s.memRead .rx 3) = some f ∧
      s.classifyFrame =
        (((s.markFrameValid (isAck (s.memRead .rx 2) (s.memRead .rx 3))).setRxPlen (BitVec.ofNat 8 (s.frameLen - 5))).setFault
          (FaultReg.record f (s.memRead .rx 3))).raise .deviceFault) ∨
    (classify (s.memRead .rx 2) (s.memRead .rx 3) = none ∧
      s.classifyFrame =
        ((s.markFrameValid (isAck (s.memRead .rx 2) (s.memRead .rx 3))).setRxPlen (BitVec.ofNat 8 (s.frameLen - 5))).done) := by
  simp only [State.classifyFrame]
  split
  · rename_i f hf
    exact .inl ⟨f, hf, rfl⟩
  · rename_i hf
    exact .inr ⟨hf, rfl⟩

/-- What SCUP can do. -/
theorem scaleUpChannel_cases (ch : Channel) (s t : State) (h : scaleUpChannel ch s = .next t) :
    (s.status.calLock = false ∧ t = s.raise .notCalibrated) ∨
    (s.status.calLock = true ∧ s.nominal ch ≠ 0#32 ∧
      ∃ r, r = scaleUp s.params.ties s.phys.toInt (s.nominal ch).toNat ∧
        (((r < -32768 ∨ 32767 < r) ∧ t = s.raise .range) ∨
          (-32768 ≤ r ∧ r ≤ 32767 ∧ t = (s.setRaw16 (BitVec.ofInt 16 r)).done))) := by
  simp only [scaleUpChannel] at h
  split at h
  · rename_i h1
    injection h with h
    exact .inl ⟨h1, h.symm⟩
  · rename_i h1
    split at h
    · exact nomatch h
    · rename_i h2
      refine .inr ⟨by simpa using h1, h2, _, rfl, ?_⟩
      split at h
      · rename_i h3
        injection h with h
        exact .inl ⟨h3, h.symm⟩
      · rename_i h3
        injection h with h
        exact .inr ⟨by omega, by omega, h.symm⟩

/-- What SCDN can do. -/
theorem scaleDownChannel_cases (ch : Channel) (s t : State) (h : scaleDownChannel ch s = .next t) :
    (s.status.calLock = false ∧ t = s.raise .notCalibrated) ∨
    (s.status.calLock = true ∧
      ∃ p, p = scaleDown s.params.ties s.raw16.toNat (s.nominal ch).toNat ∧
        ((2147483647 < p ∧ t = s.raise .range) ∨
          (p ≤ 2147483647 ∧ t = (s.setPhys (BitVec.ofInt 32 p)).done))) := by
  simp only [scaleDownChannel] at h
  split at h
  · rename_i h1
    injection h with h
    exact .inl ⟨h1, h.symm⟩
  · rename_i h1
    refine .inr ⟨by simpa using h1, _, rfl, ?_⟩
    split at h
    · rename_i h3
      injection h with h
      exact .inl ⟨h3, h.symm⟩
    · rename_i h3
      injection h with h
      exact .inr ⟨by omega, h.symm⟩

/-- What CALLOCK can do. -/
theorem execCallock_cases (s t : State) (h : execCallock s = .next t) :
    (s.status.calLock = true ∧ t = s.done) ∨
    (s.status.calLock = false ∧ (s.calV = 0#32 ∨ s.calI = 0#32) ∧ t = s.raise .calInvalid) ∨
    (s.status.calLock = false ∧ s.calV ≠ 0#32 ∧ s.calI ≠ 0#32 ∧
      t = s.lockCalibration.done) := by
  rw [execCallock] at h
  split at h
  · rename_i h1
    injection h with h
    exact .inl ⟨h1, h.symm⟩
  · rename_i h1
    split at h
    · rename_i h2
      injection h with h
      exact .inr (.inl ⟨by simpa using h1, h2, h.symm⟩)
    · rename_i h2
      injection h with h
      have h2' := not_or.mp h2
      exact .inr (.inr ⟨by simpa using h1, h2'.1, h2'.2, h.symm⟩)

/-- What UNPK16 can do. -/
theorem execUnpk16_cases (s t : State) (h : execUnpk16 s = .next t) :
    (s.params.rxCap < s.frameLen ∧ t = s.raise .overrun) ∨
    (s.frameLen ≤ s.params.rxCap ∧ s.frameLen ≤ s.fldOff.toNat + 1 ∧ t = s.raise .fieldRange) ∨
    (s.frameLen ≤ s.params.rxCap ∧ s.fldOff.toNat + 1 < s.frameLen ∧
      t = (s.setRaw16 (be16 (s.memRead .rx s.fldOff.toNat) (s.memRead .rx (s.fldOff.toNat + 1)))).done) := by
  simp only [execUnpk16] at h
  split at h
  · rename_i h1
    injection h with h
    exact .inl ⟨h1, h.symm⟩
  · split at h
    · rename_i h1 h2
      injection h with h
      exact .inr (.inl ⟨by omega, h2, h.symm⟩)
    · rename_i h1 h2
      injection h with h
      exact .inr (.inr ⟨by omega, by omega, h.symm⟩)

/-- What F32BITS can do. -/
theorem execF32bits_cases (s t : State) (h : execF32bits s = .next t) :
    (s.params.rxCap < s.frameLen ∧ t = s.raise .overrun) ∨
    (s.frameLen ≤ s.params.rxCap ∧ s.frameLen ≠ 9 ∧ t = s.raise .fieldRange) ∨
    (s.frameLen ≤ s.params.rxCap ∧ s.frameLen = 9 ∧
      t = (s.setFldW32 (reversed32 (s.memRead .rx 3) (s.memRead .rx 4) (s.memRead .rx 5) (s.memRead .rx 6))).done) := by
  simp only [execF32bits] at h
  split at h
  · rename_i h1
    injection h with h
    exact .inl ⟨h1, h.symm⟩
  · split at h
    · rename_i h1 h2
      injection h with h
      exact .inr (.inl ⟨by omega, h2, h.symm⟩)
    · rename_i h1 h2
      injection h with h
      exact .inr (.inr ⟨by omega, by simpa using h2, h.symm⟩)

/-- PK16 writes PAYBUF, PAY_LEN and STATUS alone. -/
theorem execPk16_eq (s : State) :
    execPk16 s = .next (State.done
      { s with pay := (s.memWriteList .pay 0 [hiByte s.raw16, loByte s.raw16]).pay, payLen := 2#5 }) := by
  rw [execPk16, State.memWriteList_eq]
  rfl

/-- What a transaction can do. -/
theorem perform_cases (op : HostOp) (s t : State) (h : perform op s = .next t) :
    (∃ i, op = .regRead i ∧ t = s.reply (s.regRead i)) ∨
    (∃ v, op = .regWrite 0x00#8 v ∧ exec (decodeByte (truncTo 8 v)) { s with cmd := truncTo 8 v } = .next t) ∨
    (∃ i v, op = .regWrite i v ∧ i ≠ 0x00#8 ∧ t = s.regStore i v) ∨
    (∃ sp i, op = .bufRead sp i ∧ t = s.reply ((s.bufRead sp i).setWidth 32)) ∨
    (∃ sp i v, op = .bufWrite sp i v ∧ t = s.bufWrite sp i v) ∨
    (op = .reset ∧ t = s.hardReset) := by
  cases op with
  | regRead i =>
    injection h with h
    exact .inl ⟨i, rfl, h.symm⟩
  | regWrite i v =>
    rw [perform] at h
    split at h
    · rename_i hi
      subst hi
      exact .inr (.inl ⟨v, rfl, h⟩)
    · rename_i hi
      injection h with h
      exact .inr (.inr (.inl ⟨i, v, rfl, hi, h.symm⟩))
  | bufRead sp i =>
    injection h with h
    exact .inr (.inr (.inr (.inl ⟨sp, i, rfl, h.symm⟩)))
  | bufWrite sp i v =>
    injection h with h
    exact .inr (.inr (.inr (.inr (.inl ⟨sp, i, v, rfl, h.symm⟩))))
  | reset =>
    injection h with h
    exact .inr (.inr (.inr (.inr (.inr ⟨rfl, h.symm⟩))))

/-- What a step can do: nothing with no transaction pending, else one transaction of the instance's agent. -/
theorem step_cases (s t : State) (h : step s = .next t) :
    (s.pending = [] ∧ t = s) ∨
    (∃ tr rest, s.pending = tr :: rest ∧ s.ownedBy tr.agent = true ∧
      perform tr.op ({ s with pending := rest }.claim tr.agent) = .next t) := by
  rw [step, nextTransaction] at h
  split at h
  · rename_i hp
    injection h with h
    exact .inl ⟨hp, h.symm⟩
  · rename_i tr rest hp
    rw [transact] at h
    split at h
    · rename_i ho
      exact .inr ⟨tr, rest, hp, ho, h⟩
    · exact nomatch h

end Sys2Proof.Machine
end

