-- ==== Sys2Proof/Laws/PerInstr.lean ====
section
/-! SUPPORT. What holds of every instruction as syntax, one lemma per constructor. -/

namespace Sys2Proof.Laws.OneByte

/-- Every command word is exactly 8 bits (30_encoding.md R90). -/
def Statement (i : Instr) : Prop := (encode i).length = 1

theorem nop : Statement .nop := rfl
theorem clrerr : Statement .clrerr := rfl
theorem csclr : Statement .csclr := rfl
theorem csadd : Statement .csadd := rfl
theorem encQ : Statement .encQ := rfl
theorem encS : Statement .encS := rfl
theorem dec : Statement .dec := rfl
theorem unpk16 : Statement .unpk16 := rfl
theorem pk16 : Statement .pk16 := rfl
theorem f32bits : Statement .f32bits := rfl
theorem scupV : Statement .scupV := rfl
theorem scupI : Statement .scupI := rfl
theorem scdnV : Statement .scdnV := rfl
theorem scdnI : Statement .scdnI := rfl
theorem callock : Statement .callock := rfl
theorem unassigned (code : Byte) : Statement (.unassigned code) := rfl
theorem tgQuery (len : BitVec 4) : Statement (.tgQuery len) := rfl
theorem tgSend (len : BitVec 4) : Statement (.tgSend len) := rfl

end Sys2Proof.Laws.OneByte
end

