-- ==== Sys2Proof/Tests/Slice0.lean ====
section
/-! SUPPORT. Tests and witnesses. Expected values come from 95_test_vectors.md (the vector's name stands in each
docstring) or from the encoding tables of 30_encoding.md; no test's value was taken from the model's answer. -/

namespace Sys2Proof.Tests

open Sys2Proof Sys2Proof.Machine

/-! ## Helpers -/

/-- The listing of a byte sequence from an index on. -/
def listing (i : Nat) : List Byte → Memory
  | [] => []
  | b :: bs => (i, b) :: listing (i + 1) bs

/-- `ldrx` from reset: the bytes in RXBUF and their count in RX_LEN. -/
def withRx (bs : List Byte) : State :=
  { State.reset with rx := listing 0 bs, rxLen := BitVec.ofNat 8 bs.length }

/-- `ldpay` from reset, with a node and an object. -/
def withPay (node obj : Byte) (bs : List Byte) : State :=
  { State.reset with pay := listing 0 bs, payLen := BitVec.ofNat 5 bs.length, txNode := node, txObj := obj }

/-- The scaler's setup: two nominals behind a set lock. -/
def calibrated (v i : Word) : State :=
  { State.reset with calV := v, calI := i, status := { State.reset.status with calLock := true } }

/-- The same state under ROUND_TIES = AWAY. -/
def tiesAway (s : State) : State :=
  { s with params := { s.params with ties := .away } }

/-- The state with one pending transaction of agent 7, which uses the instance. -/
def queued (op : HostOp) (s : State) : State :=
  { s with pending := [{ agent := 7, op := op }], owner := some 7 }

/-- What a projection gives after a command. -/
def after {α : Type} (i : Instr) (s : State) (f : State → α) : Option α :=
  (nextOf (exec i s)).map f

/-- What a projection gives after one host transaction. -/
def host {α : Type} (op : HostOp) (s : State) (f : State → α) : Option α :=
  (nextOf (step (queued op s))).map f

/-! ## Well-formedness: what the check refuses -/

/-- A code of R87 is not "unassigned". -/
theorem test_wf_refuses_assigned : (Instr.unassigned 0x00#8).wellFormed = false ∧
    (Instr.unassigned 0x60#8).wellFormed = false := by decide

/-- Nor is a code of the Query row, whose own constructor it has. -/
theorem test_wf_refuses_query : (Instr.unassigned 0x70#8).wellFormed = false ∧
    (Instr.unassigned 0x7F#8).wellFormed = false := by decide

/-- Nor is a code of the Send row. -/
theorem test_wf_refuses_send : (Instr.unassigned 0xF0#8).wellFormed = false ∧
    (Instr.unassigned 0xFF#8).wellFormed = false := by decide

/-! ## Decoding: words written out from 30_encoding.md R87, R88, R91 -/

theorem test_decode_nop : decodeTableWord 8 0b00000000 = some .nop := by decide
theorem test_decode_clrerr : decodeTableWord 8 0b00000001 = some .clrerr := by decide
theorem test_decode_csclr : decodeTableWord 8 0b00010000 = some .csclr := by decide
theorem test_decode_csadd : decodeTableWord 8 0b00010001 = some .csadd := by decide
theorem test_decode_encQ : decodeTableWord 8 0b00100000 = some .encQ := by decide
theorem test_decode_encS : decodeTableWord 8 0b00100001 = some .encS := by decide
theorem test_decode_dec : decodeTableWord 8 0b00110000 = some .dec := by decide
theorem test_decode_unpk16 : decodeTableWord 8 0b01000000 = some .unpk16 := by decide
theorem test_decode_pk16 : decodeTableWord 8 0b01000001 = some .pk16 := by decide
theorem test_decode_f32bits : decodeTableWord 8 0b01000010 = some .f32bits := by decide
theorem test_decode_scupV : decodeTableWord 8 0b01010000 = some .scupV := by decide
theorem test_decode_scupI : decodeTableWord 8 0b01010001 = some .scupI := by decide
theorem test_decode_scdnV : decodeTableWord 8 0b01010010 = some .scdnV := by decide
theorem test_decode_scdnI : decodeTableWord 8 0b01010011 = some .scdnI := by decide
theorem test_decode_callock : decodeTableWord 8 0b01100000 = some .callock := by decide
theorem test_decode_unassigned : decodeTableWord 8 0b00100010 = some (.unassigned 0x22#8) ∧
    decodeTableWord 8 0b01010100 = some (.unassigned 0x54#8) := by decide
theorem test_decode_tgQuery : decodeTableWord 8 0b01110101 = some (.tgQuery 0b0101#4) := by decide
theorem test_decode_tgSend : decodeTableWord 8 0b11111010 = some (.tgSend 0b1010#4) := by decide

/-- A command word is one byte (30_encoding.md R90). -/
theorem test_decode_long : decodeTableWord 16 0 = none := by decide

/-- The step after `withFetchWord` runs that word: CALLOCK with zero nominals (V-SC-31) and ENC.Q (V-ENC-2). -/
theorem test_fetch_runs_word :
    (nextOf (step (State.reset.withFetchWord 8 0x60))).map (fun t => (t.cmd, t.status.word)) = some (0x60#8, 0x0019#16) ∧
    (nextOf (step (State.reset.withFetchWord 8 0x20))).map (fun t => t.txBytes 5) =
      some [0x70#8, 0x00#8, 0x00#8, 0x00#8, 0x70#8] := by decide

/-! ## One step of each command -/

/-- V-CTL-1. -/
theorem test_nop : after .nop { State.reset with status := { State.reset.status with err := 5#4, sticky := true } }
    (fun t => t.status.word) = some 0x0010#16 := by decide

/-- V-CTL-2. -/
theorem test_clrerr : after .clrerr { State.reset with
      status := { err := 6#4, sticky := true, rxValid := true, rxAck := false, calLock := false }
      fault := { kind := 6#4, code := 0x09#8 } }
    (fun t => (t.status.word, t.fault.word)) = some (0x0020#16, 0x0906#16) := by decide

/-- V-CS-1. -/
theorem test_csclr : after .csclr { State.reset with csacc := 0x1234#16 } (fun t => t.csacc) = some 0x0000#16 := by
  decide

/-- V-CS-3. -/
theorem test_csadd_wraps : after .csadd { State.reset with csacc := 0xFFFF#16, csIn := 0x01#8 }
    (fun t => (t.csacc, t.status.word)) = some (0x0000#16, 0x0000#16) := by decide

/-- V-CS-4. -/
theorem test_csadd_carry : after .csadd { State.reset with csacc := 0xFF80#16, csIn := 0xFF#8 } (fun t => t.csacc) =
    some 0x007F#16 := by decide

/-- V-ENC-1. -/
theorem test_encQ_frame : after .encQ (withPay 0x00#8 0x02#8 []) (fun t => (t.txBytes 5, t.txLen)) =
    some ([0x70#8, 0x00#8, 0x02#8, 0x00#8, 0x72#8], 5#5) := by decide

/-- V-ENC-17. -/
theorem test_encQ_length : after .encQ { State.reset with payLen := 31#5 } (fun t => (t.txLen, t.status.word)) =
    some (0#5, 0x0012#16) := by decide

/-- V-ENC-7. -/
theorem test_encS_frame : after .encS (withPay 0x07#8 0x05#8 [0xAB#8]) (fun t => t.txBytes 6) =
    some [0xF0#8, 0x07#8, 0x05#8, 0xAB#8, 0x01#8, 0xA7#8] := by decide

/-- V-ENC-15. -/
theorem test_encS_longest : after .encS (withPay 0xFF#8 0xFF#8 (List.replicate 16 0xFF#8))
    (fun t => (t.txLen, t.txCs)) = some (21#5, 0x12ED#16) := by decide

/-- V-DEC-7. -/
theorem test_dec_ack : after .dec (withRx [0xA0#8, 0x00#8, 0xFF#8, 0x00#8, 0x01#8, 0x9F#8])
    (fun t => (t.status.word, t.rxPlen)) = some (0x0060#16, 1#8) := by decide

/-- V-DEC-14. -/
theorem test_dec_checksum_byte_as_code : after .dec (withRx [0xA0#8, 0x00#8, 0xFF#8, 0x01#8, 0x9F#8])
    (fun t => (t.status.word, t.fault.word)) = some (0x0036#16, 0x010A#16) := by decide

/-- V-FLD-2. -/
theorem test_unpk16_checksum_bytes :
    after .unpk16 { withRx [0xA1#8, 0x00#8, 0x32#8, 0x0E#8, 0x49#8, 0x01#8, 0x2A#8] with fldOff := 5#8 }
    (fun t => t.raw16) = some 0x012A#16 := by decide

/-- V-FLD-3. -/
theorem test_unpk16_range :
    after .unpk16 { withRx [0xA1#8, 0x00#8, 0x32#8, 0x0E#8, 0x49#8, 0x01#8, 0x2A#8] with fldOff := 6#8 }
    (fun t => (t.status.word, t.raw16)) = some (0x0017#16, 0x0000#16) := by decide

/-- V-FLD-13. -/
theorem test_pk16 : after .pk16 { State.reset with raw16 := 0xFF00#16, payLen := 16#5, pay := [(2, 0x77#8)] }
    (fun t => (t.payLen, t.memReadList .pay 0 3)) = some (2#5, [0xFF#8, 0x00#8, 0x77#8]) := by decide

/-- V-FLD-7. -/
theorem test_f32bits :
    after .f32bits (withRx [0xA3#8, 0x00#8, 0x02#8, 0x00#8, 0x00#8, 0x34#8, 0x42#8, 0x01#8, 0x1B#8])
    (fun t => t.fldW32) = some 0x42340000#32 := by decide

/-- V-FLD-9. -/
theorem test_f32bits_overrun : after .f32bits { State.reset with rxLen := 22#8 } (fun t => t.status.word) =
    some 0x0013#16 := by decide

/-- V-SC-5. -/
theorem test_scupV_signed : after .scupV { calibrated 84000#32 1#32 with phys := 0xFFFEB7E0#32 }
    (fun t => (t.raw16, t.status.word)) = some (0x9C00#16, 0x0080#16) := by decide

/-- V-SC-9, under EVEN and under AWAY. -/
theorem test_scupV_tie : after .scupV { calibrated 51200#32 1#32 with phys := 0xFFFFFFFF#32 } (fun t => t.raw16) =
      some 0x0000#16 ∧
    after .scupV (tiesAway { calibrated 51200#32 1#32 with phys := 0xFFFFFFFF#32 }) (fun t => t.raw16) =
      some 0xFFFF#16 := by decide

/-- V-SC-35, the current channel. -/
theorem test_scupI : after .scupI { calibrated 84000#32 5000#32 with phys := 2500#32 } (fun t => t.raw16) =
    some 0x3200#16 := by decide

/-- V-SC-19, on the current channel and under AWAY. -/
theorem test_scupI_range : after .scupI (tiesAway { calibrated 1#32 51200#32 with phys := 65535#32 })
    (fun t => (t.status.word, t.raw16)) = some (0x009A#16, 0x0000#16) := by decide

/-- V-SC-6. -/
theorem test_scdnV_unsigned : after .scdnV { calibrated 84000#32 1#32 with raw16 := 0x9C00#16 } (fun t => t.phys) =
    some 131040#32 := by decide

/-- V-SC-36, under EVEN and under AWAY. -/
theorem test_scdnV_tie : after .scdnV { calibrated 5#32 1#32 with raw16 := 12800#16 } (fun t => t.phys) = some 2#32 ∧
    after .scdnV (tiesAway { calibrated 5#32 1#32 with raw16 := 12800#16 }) (fun t => t.phys) = some 3#32 := by
  decide

/-- V-SC-37. -/
theorem test_scdnI : after .scdnI { calibrated 84000#32 5000#32 with raw16 := 300#16 } (fun t => t.phys) =
    some 59#32 := by decide

/-- V-SC-28, on the current channel. -/
theorem test_scdnI_range : after .scdnI { calibrated 1#32 838873600#32 with raw16 := 0xFFFF#16 }
    (fun t => (t.status.word, t.phys)) = some (0x009A#16, 0#32) := by decide

/-- V-SC-33. -/
theorem test_callock : after .callock { State.reset with calV := 84000#32, calI := 5000#32 } (fun t => t.status.word) =
    some 0x0080#16 := by decide

/-- V-SC-32. -/
theorem test_callock_invalid : after .callock { State.reset with calV := 84000#32 } (fun t => t.status.word) =
    some 0x0019#16 := by decide

/-- V-CTL-5. -/
theorem test_unassigned : host (.regWrite 0x00#8 0x54) (calibrated 1#32 1#32) (fun t => (t.status.word, t.cmd)) =
    some (0x0091#16, 0x54#8) := by decide

/-- V-CTL-6, second write. -/
theorem test_tgQuery : host (.regWrite 0x00#8 0x70) State.reset (fun t => t.status.word) = some 0x0011#16 := by
  decide

/-- V-CTL-3. -/
theorem test_tgSend : host (.regWrite 0x00#8 0xFF) State.reset (fun t => (t.status.word, t.cmd)) =
    some (0x0011#16, 0xFF#8) := by decide

/-! ## Host transactions -/

/-- V-HI-1, V-HI-8. -/
theorem test_host_read_only : host (.regWrite 0x01#8 0xFFFF) State.reset (fun t => t.status.word) = some 0x0000#16 ∧
    host (.regWrite 0x08#8 9) State.reset (fun t => t.txLen) = some 0#5 := by decide

/-- V-HI-2. -/
theorem test_host_unmapped : host (.regRead 0x14#8) State.reset (fun t => t.replies) = some [0#32] ∧
    host (.regRead 0xFF#8) State.reset (fun t => t.replies) = some [0#32] := by decide

/-- V-HI-4, V-HI-5. -/
theorem test_host_buffer_edges : host (.bufWrite .tx 0 0x55) State.reset (fun t => t.tx) = some [] ∧
    host (.bufRead .pay 16) State.reset (fun t => t.replies) = some [0#32] ∧
    host (.bufWrite .pay 16 1) State.reset (fun t => t.pay) = some [] := by decide

/-- V-HI-6. -/
theorem test_host_rxLen_clears : host (.regWrite 0x0A#8 5)
    { State.reset with status := { State.reset.status with rxValid := true } } (fun t => (t.status.word, t.rxLen)) =
    some (0x0000#16, 5#8) := by decide

/-- V-HI-7, V-CS-10. -/
theorem test_host_truncates : host (.regWrite 0x11#8 0x100000005) State.reset (fun t => t.phys) = some 5#32 ∧
    host (.regWrite 0x04#8 0x1FF) State.reset (fun t => t.csIn) = some 0xFF#8 := by decide

/-- The control frames of S8: the payload of "remote off", and of "output on". -/
theorem test_control_payload : controlPayload remoteMask false = [0x10#8, 0x00#8] ∧
    controlPayload outputMask true = [0x01#8, 0x01#8] := by decide

/-! ## Witnesses: a concrete case for the hypotheses of each statement, and for each clause at its boundary -/

/-- A frame with a right checksum (V-DEC-1). -/
def goodFrame : State := withRx [0x70#8, 0x00#8, 0x02#8, 0x00#8, 0x72#8]

/-- The state after DEC has accepted it. -/
def vouched : State := (nextOf (exec .dec goodFrame)).getD State.reset

/-- The state after V-ENC-1. -/
def encoded : State := (nextOf (exec .encQ (withPay 0x00#8 0x02#8 []))).getD State.reset

theorem witness_DecodeEncodeAgree : (Instr.nop).wellFormed = true ∧ (Instr.unassigned 0x02#8).wellFormed = true ∧
    (Instr.tgQuery 15#4).wellFormed = true ∧ (Instr.tgSend 0#4).wellFormed = true := by decide

theorem witness_OpcodeMapDecodes : 0x02#8 ∉ [0x00#8, 0x01#8, 0x10#8, 0x11#8, 0x20#8, 0x21#8, 0x30#8, 0x40#8, 0x41#8,
    0x42#8, 0x50#8, 0x51#8, 0x52#8, 0x53#8, 0x60#8] := by decide

theorem witness_ClrerrAloneClearsSticky :
    ∃ s t : State, Instr.nop ≠ .clrerr ∧ exec .nop s = .next t ∧ s.status.sticky = true ∧
      ∃ u, perform .reset s = .next u :=
  ⟨{ State.reset with status := { State.reset.status with sticky := true } }, _, by decide, rfl, rfl, _, rfl⟩

theorem witness_UnassignedCodesRaiseIllegalCmd : 0x54#8 ∉ assignedCodes ∧ 0x70#8 ∉ assignedCodes ∧
    0xFF#8 ∉ assignedCodes ∧ 0x02#8 ∉ assignedCodes ∧ 0x61#8 ∉ assignedCodes := by decide

theorem witness_StartDelimiterRowsRaiseIllegalCmd : (∃ l, Instr.tgQuery 0#4 = .tgQuery l) ∧
    (∃ l, Instr.tgSend 15#4 = .tgSend l) := ⟨⟨_, rfl⟩, ⟨_, rfl⟩⟩

theorem witness_CsaddAddsModulo : ∃ t, exec .csclr State.reset = .next t := ⟨_, rfl⟩

theorem witness_Sum16IsByteSumModulo : [1#8, 2#8].Perm [2#8, 1#8] := by decide

theorem witness_Sum16Laws : (List.replicate 257 0xFF#8).length < 258 ∧ (List.replicate 19 0xFF#8).length ≤ 19 ∧
    0 < [0x80#8].length ∧ 7 < 8 ∧ byteSum [1#8, 2#8] = byteSum [3#8] := by decide +kernel

theorem witness_StartDelimiterFields : 0 ≤ 16 ∧ 1 ≤ 16 ∧ 16 ≤ 16 := by decide

theorem witness_StartDelimiterReadsBack : 0 ≤ 16 ∧ 16 ≤ 16 ∧ classifyDelimiter 0x7F#8 = some (.query, 15#4) ∧
    classifyDelimiter 0xF0#8 = some (.send, 0#4) := by decide

/-- PAY_LEN 0, 16, 17 and 31. -/
theorem witness_EncoderBuildsFrameOrRaisesLength : (withPay 0#8 0#8 []).payLen.toNat ≤ 16 ∧
    (withPay 0#8 0#8 (List.replicate 16 0#8)).payLen.toNat ≤ 16 ∧
    16 < ({ State.reset with payLen := 17#5 }).payLen.toNat ∧ 16 < ({ State.reset with payLen := 31#5 }).payLen.toNat := by
  decide

theorem witness_ClassifyFollowsFaultTable : 0x02#8 ≠ 0xFF#8 ∧
    (∀ e ∈ [0x01#8, 0x02#8, 0x06#8, 0x0E#8, 0x10#8, 0x2F#8, 0x32#8, 0xFF#8],
      e ∉ [0x00#8, 0x03#8, 0x04#8, 0x05#8, 0x07#8, 0x08#8, 0x09#8, 0x0F#8, 0x30#8, 0x31#8]) := by decide

/-- Each clause: RX_LEN = RX_CAP + 1, RX_CAP, 4 and 5, a mismatch, a plain frame, an acknowledgement, a fault
(V-DEC-9, 10, 2, 1, 4, 7, 20). -/
theorem witness_DecValidatesThenClassifies :
    after .dec { State.reset with rxLen := 22#8 } (fun t => t.status.err) = some 3#4 ∧
    after .dec (withRx ([0xA0#8] ++ List.replicate 18 0x00#8 ++ [0x00#8, 0xA0#8])) (fun t => t.rxPlen) = some 16#8 ∧
    after .dec { goodFrame with rxLen := 4#8 } (fun t => t.status.err) = some 4#4 ∧
    after .dec goodFrame (fun t => (t.status.err, t.rxCscalc)) = some (0#4, 0x0072#16) ∧
    after .dec (withRx [0x70#8, 0x00#8, 0x03#8, 0x00#8, 0x72#8]) (fun t => t.status.err) = some 5#4 ∧
    after .dec (withRx [0xA0#8, 0x00#8, 0xFF#8, 0x00#8, 0x01#8, 0x9F#8]) (fun t => t.status.rxAck) = some true ∧
    after .dec (withRx [0xA0#8, 0x00#8, 0xFF#8, 0x09#8, 0x01#8, 0xA8#8]) (fun t => t.fault.word) = some 0x0906#16 := by
  decide

/-- Three bytes and their checksum; two bytes; and V-ENC-1's frame copied into RXBUF. -/
theorem witness_DecAcceptsChecksummedBytes :
    (3 ≤ [0x70#8, 0x00#8, 0x02#8].length ∧ [0x70#8, 0x00#8, 0x02#8].length + 2 ≤ goodFrame.params.rxCap ∧
      goodFrame.rxLen.toNat = [0x70#8, 0x00#8, 0x02#8].length + 2 ∧
      goodFrame.rxBytes 5 = [0x70#8, 0x00#8, 0x02#8] ++
        [hiByte (sum16 [0x70#8, 0x00#8, 0x02#8]), loByte (sum16 [0x70#8, 0x00#8, 0x02#8])]) ∧
    ([0x70#8, 0x00#8].length ≤ 2 ∧ (withRx [0x70#8, 0x00#8, 0x00#8, 0x70#8]).rxLen.toNat = [0x70#8, 0x00#8].length + 2) ∧
    encoded.status.err = 0#4 ∧ goodFrame.params.Legal ∧ goodFrame.rxLen.toNat = encoded.txLen.toNat ∧
    goodFrame.rxBytes encoded.txLen.toNat = encoded.txBytes encoded.txLen.toNat := by decide

/-- V-DEC-1's frame and V-DEC-4's, which differs in bit 0 of byte 2 (j = L - 3). -/
theorem witness_DecDetectsSingleBitFlip :
    5 ≤ goodFrame.rxLen.toNat ∧ goodFrame.rxLen.toNat ≤ goodFrame.params.rxCap ∧
    sum16 (goodFrame.rxBytes (goodFrame.rxLen.toNat - 2)) =
      be16 (goodFrame.memRead .rx (goodFrame.rxLen.toNat - 2)) (goodFrame.memRead .rx (goodFrame.rxLen.toNat - 1)) ∧
    2 < goodFrame.rxLen.toNat - 2 ∧ 0 < 8 ∧
    (withRx [0x70#8, 0x00#8, 0x03#8, 0x00#8, 0x72#8]).memRead .rx 2 = goodFrame.memRead .rx 2 ^^^ BitVec.twoPow 8 0 ∧
    (∀ a, a < 5 → a ≠ 2 →
      (withRx [0x70#8, 0x00#8, 0x03#8, 0x00#8, 0x72#8]).memRead .rx a = goodFrame.memRead .rx a) := by decide

/-- Each clause: RX_LEN = RX_CAP + 1; FLD_OFF + 1 = L; FLD_OFF + 1 = L - 1; FLD_OFF = 0xFF. -/
theorem witness_Unpk16ReadsBigEndianField :
    after .unpk16 { State.reset with rxLen := 22#8, fldOff := 3#8 } (fun t => t.status.err) = some 3#4 ∧
    after .unpk16 { goodFrame with fldOff := 4#8 } (fun t => t.status.err) = some 7#4 ∧
    after .unpk16 { goodFrame with fldOff := 3#8 } (fun t => t.raw16) = some 0x0072#16 ∧
    after .unpk16 { goodFrame with fldOff := 0xFF#8 } (fun t => t.status.err) = some 7#4 := by decide

/-- Each clause: RX_LEN = RX_CAP + 1, 8, 9 and 10 (V-FLD-9, 8, 10). -/
theorem witness_F32bitsReversesPayload :
    after .f32bits { State.reset with rxLen := 22#8 } (fun t => t.status.err) = some 3#4 ∧
    after .f32bits { State.reset with rxLen := 8#8 } (fun t => t.status.err) = some 7#4 ∧
    after .f32bits (withRx [0xA3#8, 0x00#8, 0x02#8, 0x00#8, 0x00#8, 0xC0#8, 0x7F#8, 0x01#8, 0xE4#8]) (fun t => t.fldW32) =
      some 0x7FC00000#32 ∧
    after .f32bits { State.reset with rxLen := 10#8 } (fun t => t.status.err) = some 7#4 := by decide

/-- A half under each value of ROUND_TIES. -/
theorem witness_RoundDivIsNearest : (1 : Int) ≤ 2 ∧ (2 * |1 - roundDiv .even 1 2 * 2| : Int) = 2 ∧
    (2 * |1 - roundDiv .away 1 2 * 2| : Int) = 2 := by decide

/-- Each clause: unlocked; locked, with RAW16 at 32767 and at 32768, at -32768 and at -32769 (V-SC-15 to V-SC-18). -/
theorem witness_ScupScalesUp : State.reset.status.calLock = false ∧
    (calibrated 25600#32 1#32).status.calLock = true ∧ (calibrated 25600#32 1#32).calV ≠ 0#32 ∧
    after .scupV { calibrated 25600#32 1#32 with phys := 32767#32 } (fun t => t.raw16) = some 0x7FFF#16 ∧
    after .scupV { calibrated 25600#32 1#32 with phys := 32768#32 } (fun t => t.status.err) = some 10#4 ∧
    after .scupV { calibrated 25600#32 1#32 with phys := BitVec.ofInt 32 (-32768) } (fun t => t.raw16) = some 0x8000#16 ∧
    after .scupV { calibrated 25600#32 1#32 with phys := BitVec.ofInt 32 (-32769) } (fun t => t.status.err) =
      some 10#4 := by decide

/-- Each clause: unlocked; locked, on both sides of 2^31 - 1 (V-SC-27, V-SC-28). -/
theorem witness_ScdnScalesDown : State.reset.status.calLock = false ∧ (calibrated 1#32 1#32).status.calLock = true ∧
    after .scdnV { calibrated 838873599#32 1#32 with raw16 := 0xFFFF#16 } (fun t => t.phys) = some 2147483645#32 ∧
    after .scdnV { calibrated 838873600#32 1#32 with raw16 := 0xFFFF#16 } (fun t => t.status.err) = some 10#4 := by
  decide

theorem witness_ScalerNeedsCalibration : State.reset.status.calLock = false := rfl

/-- The edges of the ranges: P = 0 and P = N; and N = 25600 with P at 32767, 32768, -32768 and -32769. -/
theorem witness_ScaleUpLaws : (1 : Int) ≤ 1 ∧ (0 : Int) ≤ 1 ∧ scaleUp .even 0 1 = 0 ∧ scaleUp .even 1 1 = 25600 ∧
    (calibrated 25600#32 1#32).status.calLock = true ∧ (calibrated 25600#32 1#32).calV = 25600#32 ∧
    (32767#32).toInt = 32767 ∧ (32768#32).toInt = 32768 ∧ (BitVec.ofInt 32 (-32768)).toInt = -32768 ∧
    (BitVec.ofInt 32 (-32769)).toInt = -32769 ∧
    (∃ t, exec .scupV { calibrated 25600#32 1#32 with phys := 32767#32 } = .next t) ∧
    (∃ t, exec .scupV { calibrated 25600#32 1#32 with phys := 32768#32 } = .next t) ∧
    (∃ t, exec .scupV { calibrated 25600#32 1#32 with phys := BitVec.ofInt 32 (-32768) } = .next t) ∧
    (∃ t, exec .scupV { calibrated 25600#32 1#32 with phys := BitVec.ofInt 32 (-32769) } = .next t) :=
  ⟨by decide, by decide, by decide, by decide, rfl, rfl, by simp, by simp, by simp, by simp, ⟨_, rfl⟩, ⟨_, rfl⟩, ⟨_, rfl⟩, _,
    rfl⟩

theorem witness_ScaleDownLaws : (0 : Int) ≤ 0 ∧ (0 : Int) ≤ 25600 ∧ scaleDown .even 25600 5000 = 5000 := by decide

/-- The two ends P = 0 and P = N on the two sides of the clauses' boundary, N = 25599 and N = 25600. -/
theorem witness_ScaleRoundTrip :
    (∀ n : Word, (calibrated n 1#32).status.calLock = true ∧ (calibrated n 1#32).calV = n) ∧
    1 ≤ (25599#32).toNat ∧ 0 ≤ (0#32).toInt ∧ (0#32).toInt ≤ (25599#32).toNat ∧ (25599#32).toNat < 25600 ∧
    1 ≤ (25600#32).toNat ∧ 0 ≤ (25600#32).toInt ∧ (25600#32).toInt ≤ (25600#32).toNat ∧ 25600 ≤ (25600#32).toNat :=
  ⟨fun _ => ⟨rfl, rfl⟩, by simp⟩

/-- Each clause: already locked, a zero nominal, both at 1; a locked state and a transaction that is no Reset. -/
theorem witness_CallockLocksNonzeroNominals :
    after .callock (calibrated 0#32 0#32) (fun t => t.status.word) = some 0x0080#16 ∧
    after .callock { State.reset with calV := 1#32 } (fun t => t.status.word) = some 0x0019#16 ∧
    after .callock { State.reset with calV := 1#32, calI := 1#32 } (fun t => t.status.word) = some 0x0080#16 ∧
    (calibrated 1#32 1#32).status.calLock = true ∧ HostOp.regWrite 0x12#8 7 ≠ .reset ∧
    (∃ t, perform (.regWrite 0x12#8 7) (calibrated 1#32 1#32) = .next t) ∧
    ∃ t, perform .reset (calibrated 1#32 1#32) = .next t :=
  ⟨by decide, by decide, by decide, rfl, by decide, ⟨_, rfl⟩, _, rfl⟩

theorem witness_ScupFaultsOnlyOnLockedZeroNominal : exec .scupV (calibrated 0#32 1#32) = .fault .zeroNominal ∧
    exec .scupI (calibrated 1#32 0#32) = .fault .zeroNominal := ⟨rfl, rfl⟩

theorem witness_CommandsWriteOnlyTheirOutputs : (∃ t, exec .dec goodFrame = .next t) ∧ (∃ t, exec .nop goodFrame = .next t) :=
  ⟨⟨_, rfl⟩, ⟨_, rfl⟩⟩

theorem witness_ErrorCodesPerCommand : after .callock State.reset (fun t => t.status.err) = some 9#4 ∧
    after .nop State.reset (fun t => t.status.err) = some 0#4 := by decide

/-- A sound calibration with a step of the instance's agent, and with one of a second agent. -/
theorem witness_StepStopsOnlyForSecondHost : (calibrated 1#32 1#32).CalibrationSound ∧
    (∃ t, step (queued (.regRead 0x01#8) (calibrated 1#32 1#32)) = .next t) ∧
    step { queued (.regRead 0x01#8) (calibrated 1#32 1#32) with owner := some 3 } = .refused .secondHost :=
  ⟨fun _ => ⟨by decide, by decide⟩, ⟨_, rfl⟩, rfl⟩

theorem witness_CodecIgnoresAccumulator : Instr.dec ∈ [Instr.encQ, Instr.encS, Instr.dec] ∧
    (State.reset.withCsacc 0xBEEF#16).csacc = 0xBEEF#16 := by decide

/-- Two states that differ in a byte of RXBUF at RX_LEN and one of PAYBUF at PAY_LEN. -/
theorem witness_BytesBeyondLengthsDoNotMatter : ∃ s u t : State, u = { s with pay := u.pay, tx := u.tx, rx := u.rx } ∧
    (∀ a, a < s.rxLen.toNat → u.memRead .rx a = s.memRead .rx a) ∧
    (∀ a, a < s.payLen.toNat → u.memRead .pay a = s.memRead .pay a) ∧ exec .dec s = .next t ∧
    u.memRead .rx 5 ≠ s.memRead .rx 5 ∧ u.memRead .pay 0 ≠ s.memRead .pay 0 :=
  ⟨{ goodFrame with rx := goodFrame.rx ++ [(5, 0x00#8)], pay := [(0, 0x00#8)] },
    { goodFrame with rx := goodFrame.rx ++ [(5, 0x01#8)], pay := [(0, 0x01#8)] }, _, rfl, by decide, by decide,
    rfl, by decide, by decide⟩

/-- A CMD write of 0x121, whose low 8 bits are ENC.S. -/
theorem witness_StepRunsDecodedInstruction :
    (queued (.regWrite 0x00#8 0x121) State.reset).Next 7 (.regWrite 0x00#8 0x121) [] ∧
    decode [BitVec.ofInt 8 0x121] = .ok .encS ∧ (Instr.encS).wellFormed = true := ⟨⟨rfl, rfl⟩, rfl, rfl⟩

theorem witness_IdleStepChangesNothing : State.reset.pending = [] := rfl

theorem witness_SecondHostIsRefused : ({ queued .reset State.reset with owner := some 3 }).owner = some 3 ∧ 7 ≠ 3 ∧
    ({ queued .reset State.reset with owner := some 3 }).pending = { agent := 7, op := .reset } :: [] :=
  ⟨rfl, by decide, rfl⟩

theorem witness_StepPerformsOldestTransaction : (queued .reset State.reset).Next 7 .reset [] ∧
    ({ queued .reset State.reset with owner := none }).Next 7 .reset [] := ⟨⟨rfl, rfl⟩, ⟨rfl, rfl⟩⟩

/-- STATUS with every field set reads 0x00FA. -/
theorem witness_RegisterReadsReturnValues : (0x13#8, State.reset.calI.toNat) ∈ State.reset.registerRows ∧
    host (.regRead 0x01#8) { State.reset with
      status := { err := 10#4, sticky := true, rxValid := true, rxAck := true, calLock := true } } (fun t => t.replies) =
      some [0x00FA#32] := by decide

/-- A 5-bit register at the edge of its width (V-ENC-18), and RX_LEN. -/
theorem witness_RegisterWritesStoreTruncated : (0x07#8, 5) ∈ writableRegisters ∧ (0x0A#8, 8) ∈ writableRegisters ∧
    (0x02#8 ≠ 0x07#8 ∧ 0x02#8 ≠ 0x01#8) ∧ host (.regWrite 0x07#8 0x25) State.reset (fun t => t.payLen) = some 5#5 := by
  decide

theorem witness_ReadOnlyWritesIgnored : 0x01#8 ∈ readOnlyRegisters ∧ 0x10#8 ∈ readOnlyRegisters := by decide

/-- Both nominals, unlocked and locked; CALLOCK from an unlocked state. -/
theorem witness_CalibrationWritableUntilLocked :
    host (.regWrite 0x12#8 7) State.reset (fun t => t.calV) = some 7#32 ∧
    host (.regWrite 0x13#8 7) (calibrated 1#32 1#32) (fun t => t.calI) = some 1#32 ∧
    State.reset.status.calLock = false ∧ ∃ t, exec .callock State.reset = .next t :=
  ⟨by decide, by decide, rfl, _, rfl⟩

/-- Index 0x14 (and 0x13, the last mapped one), PAY[16], RX[RX_CAP], TX[21] and a write to TX[0]. -/
theorem witness_AbsentLocationsReadZeroIgnoreWrites : 0x14 ≤ (0x14#8).toNat ∧ ¬(0x14 ≤ (0x13#8).toNat) ∧
    State.reset.bufSize .pay ≤ 16 ∧ State.reset.bufSize .rx ≤ 21 ∧ State.reset.bufSize .tx ≤ 21 ∧
    ¬(State.reset.bufSize .pay ≤ 15) ∧ BufSpace.tx = .tx := by decide

/-- PAY[15], RX[20] with RX_CAP = 21, and TX[20]. -/
theorem witness_BufferAccessesMoveOneByte : 15 < 16 ∧ 20 < State.reset.params.rxCap ∧ 20 < State.reset.bufSize .tx ∧
    host (.bufWrite .pay 15 0x1FF) State.reset (fun t => t.memRead .pay 15) = some 0xFF#8 := by decide

theorem witness_HostWritesAreIdempotent : 0x12#8 ≠ 0x00#8 ∧ (∃ t, perform (.regWrite 0x12#8 7) State.reset = .next t) ∧
    ∃ t, perform (.bufWrite .rx 3 7) State.reset = .next t := ⟨by decide, ⟨_, rfl⟩, ⟨_, rfl⟩⟩

/-- The three buffers of a state with listed bytes are empty after a Reset. -/
theorem witness_ResetBytesAreFree : encoded.tx.length = 5 ∧
    (nextOf (perform .reset encoded)).map (fun t => (t.pay, t.tx, t.rx)) = some ([], [], []) := by decide

theorem witness_StepKeepsParameters : ∃ t, step (queued .reset (tiesAway State.reset)) = .next t := ⟨_, rfl⟩

/-- A state after an accepted frame, about to run DEC once more. -/
theorem witness_StepKeepsStatusLegal : (queued (.regWrite 0x00#8 0x30) vouched).StatusLegal ∧
    ∃ t, step (queued (.regWrite 0x00#8 0x30) vouched) = .next t :=
  ⟨⟨by decide, by decide, by decide, by decide⟩, _, rfl⟩

/-- A locked state, about to run CALLOCK. -/
theorem witness_StepKeepsCalibrationSound : (queued (.regWrite 0x00#8 0x60) (calibrated 1#32 1#32)).CalibrationSound ∧
    ∃ t, step (queued (.regWrite 0x00#8 0x60) (calibrated 1#32 1#32)) = .next t :=
  ⟨fun _ => ⟨by decide, by decide⟩, _, rfl⟩

/-- A state with listed bytes, about to write the last byte of RXBUF. -/
theorem witness_StepKeepsMemoryCanonical : (queued (.bufWrite .rx 20 1) vouched).memoryWf = true ∧
    ∃ t, step (queued (.bufWrite .rx 20 1) vouched) = .next t := ⟨by decide, _, rfl⟩

/-- The state after V-ENC-1, about to write a payload byte. -/
theorem witness_StepKeepsTelegramSound : (queued (.bufWrite .pay 0 1) encoded).TelegramSound ∧
    encoded.txLen = 5#5 ∧ ∃ t, step (queued (.bufWrite .pay 0 1) encoded) = .next t :=
  ⟨.inr ⟨by decide, by decide, ⟨.query, by decide⟩, by decide, by decide,
    by decide⟩, by decide, _, rfl⟩

/-- The state after an accepted frame, about to write a byte of RXBUF, which takes the voucher away. -/
theorem witness_StepKeepsFrameVouched : (queued (.bufWrite .rx 4 0x73) vouched).FrameVouched ∧
    vouched.status.rxValid = true ∧ ∃ t, step (queued (.bufWrite .rx 4 0x73) vouched) = .next t :=
  ⟨fun _ => by decide, by decide, _, rfl⟩

end Sys2Proof.Tests
end

section
/-! PROOFS. The informative units play no part in any step (00_scope.md R7). A read of the state gives the same with the
units replaced, and an update of the state commutes with replacing them; so does each command, hence each transaction,
hence the step. -/

namespace Sys2Proof.Machine

/-! ## mapNext on each outcome -/

@[simp] theorem mapNext_next (f : State → State) (s : State) : mapNext f (.next s) = .next (f s) := rfl
@[simp] theorem mapNext_fault (f : State → State) (r : Fault) : mapNext f (.fault r) = .fault r := rfl
@[simp] theorem mapNext_refused (f : State → State) (r : Refusal) : mapNext f (.refused r) = .refused r := rfl

section
variable (s : State) (u v : PhysUnit)

/-! ## Reads that do not see the units -/

@[simp] theorem State.withUnits_status : (s.withUnits u v).status = s.status := rfl
@[simp] theorem State.withUnits_txNode : (s.withUnits u v).txNode = s.txNode := rfl
@[simp] theorem State.withUnits_txObj : (s.withUnits u v).txObj = s.txObj := rfl
@[simp] theorem State.withUnits_payLen : (s.withUnits u v).payLen = s.payLen := rfl
@[simp] theorem State.withUnits_fldOff : (s.withUnits u v).fldOff = s.fldOff := rfl
@[simp] theorem State.withUnits_raw16 : (s.withUnits u v).raw16 = s.raw16 := rfl
@[simp] theorem State.withUnits_phys : (s.withUnits u v).phys = s.phys := rfl
@[simp] theorem State.withUnits_calV : (s.withUnits u v).calV = s.calV := rfl
@[simp] theorem State.withUnits_calI : (s.withUnits u v).calI = s.calI := rfl
@[simp] theorem State.withUnits_rxCap : (s.withUnits u v).params.rxCap = s.params.rxCap := rfl
@[simp] theorem State.withUnits_ties : (s.withUnits u v).params.ties = s.params.ties := rfl
@[simp] theorem State.withUnits_pending : (s.withUnits u v).pending = s.pending := rfl
@[simp] theorem State.withUnits_frameLen : (s.withUnits u v).frameLen = s.frameLen := rfl

@[simp] theorem State.withUnits_nominal (ch : Channel) : (s.withUnits u v).nominal ch = s.nominal ch := by
  cases ch <;> rfl

@[simp] theorem State.withUnits_ownedBy (agent : Nat) : (s.withUnits u v).ownedBy agent = s.ownedBy agent := rfl

@[simp] theorem State.withUnits_bufSize (sp : BufSpace) : (s.withUnits u v).bufSize sp = s.bufSize sp := by
  cases sp <;> rfl

@[simp] theorem State.withUnits_memRead (sp : BufSpace) (i : Nat) : (s.withUnits u v).memRead sp i = s.memRead sp i := by
  cases sp <;> rfl

@[simp] theorem State.withUnits_memReadList (sp : BufSpace) (i n : Nat) :
    (s.withUnits u v).memReadList sp i n = s.memReadList sp i n :=
  State.memReadList_congr _ _ sp sp n i i fun k _ => State.withUnits_memRead s u v sp (i + k)

@[simp] theorem State.withUnits_rxBytes (n : Nat) : (s.withUnits u v).rxBytes n = s.rxBytes n :=
  State.withUnits_memReadList s u v .rx 0 n

@[simp] theorem State.withUnits_txBytes (n : Nat) : (s.withUnits u v).txBytes n = s.txBytes n :=
  State.withUnits_memReadList s u v .tx 0 n

@[simp] theorem State.withUnits_payload : (s.withUnits u v).payload = s.payload :=
  State.withUnits_memReadList s u v .pay 0 s.payLen.toNat

@[simp] theorem State.withUnits_regRead (i : BitVec 8) : (s.withUnits u v).regRead i = s.regRead i := by
  simp only [State.regRead]
  split
  · rename_i r _
    cases r <;> rfl
  · rfl

@[simp] theorem State.withUnits_bufRead (sp : BufSpace) (i : Nat) : (s.withUnits u v).bufRead sp i = s.bufRead sp i := by
  simp only [State.bufRead, State.withUnits_bufSize, State.withUnits_memRead]

/-! ## Updates that commute with replacing the units -/

@[simp] theorem State.withUnits_done : (s.withUnits u v).done = s.done.withUnits u v := rfl

@[simp] theorem State.withUnits_raise (e : EngineError) : (s.withUnits u v).raise e = (s.raise e).withUnits u v := rfl

@[simp] theorem State.withUnits_setPayLen (n : BitVec 5) :
    (s.withUnits u v).setPayLen n = (s.setPayLen n).withUnits u v := rfl

@[simp] theorem State.withUnits_setRaw16 (x : Half) : (s.withUnits u v).setRaw16 x = (s.setRaw16 x).withUnits u v := rfl

@[simp] theorem State.withUnits_setFldW32 (x : Word) :
    (s.withUnits u v).setFldW32 x = (s.setFldW32 x).withUnits u v := rfl

@[simp] theorem State.withUnits_setPhys (x : Word) : (s.withUnits u v).setPhys x = (s.setPhys x).withUnits u v := rfl

@[simp] theorem State.withUnits_lockCalibration : (s.withUnits u v).lockCalibration = s.lockCalibration.withUnits u v := rfl

@[simp] theorem State.withUnits_reply (x : Word) : (s.withUnits u v).reply x = (s.reply x).withUnits u v := rfl

@[simp] theorem State.withUnits_setTxResult (len : BitVec 5) (cs : Half) :
    (s.withUnits u v).setTxResult len cs = (s.setTxResult len cs).withUnits u v := rfl

@[simp] theorem State.withUnits_clearRxFlags : (s.withUnits u v).clearRxFlags = s.clearRxFlags.withUnits u v := rfl

@[simp] theorem State.withUnits_clearDecResults :
    (s.withUnits u v).clearDecResults = s.clearDecResults.withUnits u v := rfl

@[simp] theorem State.withUnits_setSums (computed received : Half) :
    (s.withUnits u v).setSums computed received = (s.setSums computed received).withUnits u v := rfl

@[simp] theorem State.withUnits_claim (agent : Nat) : (s.withUnits u v).claim agent = (s.claim agent).withUnits u v := rfl

@[simp] theorem State.withUnits_memWrite (sp : BufSpace) (i : Nat) (b : Byte) :
    (s.withUnits u v).memWrite sp i b = (s.memWrite sp i b).withUnits u v := by
  cases sp <;> rfl

@[simp] theorem State.withUnits_memWriteList (sp : BufSpace) (bs : List Byte) :
    ∀ (s : State) (i : Nat), (s.withUnits u v).memWriteList sp i bs = (s.memWriteList sp i bs).withUnits u v := by
  induction bs with
  | nil => intro s i; rfl
  | cons b bs ih => intro s i; rw [State.memWriteList, State.withUnits_memWrite, ih, State.memWriteList]

@[simp] theorem State.withUnits_storeReg (r : Reg) (x : Int) :
    (s.withUnits u v).storeReg r x = (s.storeReg r x).withUnits u v := by
  cases r with
  | calV | calI =>
    by_cases hlock : s.status.calLock = true
    · simp [State.storeReg, hlock]
    · simp [State.storeReg, hlock, State.withUnits]
  | _ => rfl

@[simp] theorem State.withUnits_regStore (i : BitVec 8) (x : Int) :
    (s.withUnits u v).regStore i x = (s.regStore i x).withUnits u v := by
  simp only [State.regStore]
  split
  · exact State.withUnits_storeReg s u v _ x
  · rfl

@[simp] theorem State.withUnits_bufWrite (sp : BufSpace) (i : Nat) (x : Int) :
    (s.withUnits u v).bufWrite sp i x = (s.bufWrite sp i x).withUnits u v := by
  by_cases hi : i < s.bufSize sp
  · cases sp <;> simp [State.bufWrite, hi]
  · simp [State.bufWrite, hi]

/-- The encoder computes the checksum over its own writes, so the units pass through both writes and the read back. -/
@[simp] theorem State.withUnits_buildTelegram (k : RequestKind) :
    (s.withUnits u v).buildTelegram k = (s.buildTelegram k).withUnits u v := by
  simp only [State.buildTelegram, State.withUnits_payLen, State.withUnits_txNode, State.withUnits_txObj,
    State.withUnits_payload, State.withUnits_memWriteList, State.withUnits_txBytes, State.withUnits_setTxResult]

@[simp] theorem State.withUnits_classifyFrame :
    (s.withUnits u v).classifyFrame = s.classifyFrame.withUnits u v := by
  simp only [State.classifyFrame, State.withUnits_memRead]
  split <;> rfl

/-! ## The commands -/

theorem encodeTelegram_withUnits (k : RequestKind) :
    encodeTelegram k (s.withUnits u v) = mapNext (State.withUnits u v) (encodeTelegram k s) := by
  by_cases hlen : 16 < s.payLen.toNat <;> simp [encodeTelegram, hlen]

theorem execDec_withUnits : execDec (s.withUnits u v) = mapNext (State.withUnits u v) (execDec s) := by
  by_cases hcap : s.params.rxCap < s.frameLen
  · simp [execDec, hcap]
  by_cases hmin : s.frameLen < 5
  · simp [execDec, hcap, hmin]
  by_cases hsum : sum16 (s.rxBytes (s.frameLen - 2)) =
      be16 (s.memRead .rx (s.frameLen - 2)) (s.memRead .rx (s.frameLen - 1)) <;>
    simp [execDec, hcap, hmin, hsum]

theorem execUnpk16_withUnits : execUnpk16 (s.withUnits u v) = mapNext (State.withUnits u v) (execUnpk16 s) := by
  by_cases hcap : s.params.rxCap < s.frameLen
  · simp [execUnpk16, hcap]
  by_cases hoff : s.frameLen ≤ s.fldOff.toNat + 1 <;> simp [execUnpk16, hcap, hoff]

theorem execPk16_withUnits : execPk16 (s.withUnits u v) = mapNext (State.withUnits u v) (execPk16 s) := by
  simp [execPk16]

theorem execF32bits_withUnits : execF32bits (s.withUnits u v) = mapNext (State.withUnits u v) (execF32bits s) := by
  by_cases hcap : s.params.rxCap < s.frameLen
  · simp [execF32bits, hcap]
  by_cases hlen : s.frameLen = 9
  · rw [hlen] at hcap
    simp [execF32bits, hlen, hcap]
  · simp [execF32bits, hcap, hlen]

theorem scaleUpChannel_withUnits (ch : Channel) :
    scaleUpChannel ch (s.withUnits u v) = mapNext (State.withUnits u v) (scaleUpChannel ch s) := by
  by_cases hlock : s.status.calLock = false
  · simp [scaleUpChannel, hlock]
  by_cases hnom : s.nominal ch = 0#32
  · simp [scaleUpChannel, hlock, hnom]
  by_cases hrange : scaleUp s.params.ties s.phys.toInt (s.nominal ch).toNat < -32768 ∨
      32767 < scaleUp s.params.ties s.phys.toInt (s.nominal ch).toNat <;>
    simp [scaleUpChannel, hlock, hnom, hrange]

theorem scaleDownChannel_withUnits (ch : Channel) :
    scaleDownChannel ch (s.withUnits u v) = mapNext (State.withUnits u v) (scaleDownChannel ch s) := by
  by_cases hlock : s.status.calLock = false
  · simp [scaleDownChannel, hlock]
  by_cases hrange : 2147483647 < scaleDown s.params.ties s.raw16.toNat (s.nominal ch).toNat <;>
    simp [scaleDownChannel, hlock, hrange]

theorem execCallock_withUnits : execCallock (s.withUnits u v) = mapNext (State.withUnits u v) (execCallock s) := by
  by_cases hlock : s.status.calLock = true
  · simp [execCallock, hlock]
  by_cases hzero : s.calV = 0#32 ∨ s.calI = 0#32 <;> simp [execCallock, hlock, hzero]

theorem exec_withUnits (i : Instr) : exec i (s.withUnits u v) = mapNext (State.withUnits u v) (exec i s) := by
  cases i with
  | nop | clrerr | csclr | csadd | unassigned _ | tgQuery _ | tgSend _ => rfl
  | encQ => exact encodeTelegram_withUnits s u v .query
  | encS => exact encodeTelegram_withUnits s u v .send
  | dec => exact execDec_withUnits s u v
  | unpk16 => exact execUnpk16_withUnits s u v
  | pk16 => exact execPk16_withUnits s u v
  | f32bits => exact execF32bits_withUnits s u v
  | scupV => exact scaleUpChannel_withUnits s u v .voltage
  | scupI => exact scaleUpChannel_withUnits s u v .current
  | scdnV => exact scaleDownChannel_withUnits s u v .voltage
  | scdnI => exact scaleDownChannel_withUnits s u v .current
  | callock => exact execCallock_withUnits s u v

theorem runCommand_withUnits : runCommand (s.withUnits u v) = mapNext (State.withUnits u v) (runCommand s) :=
  exec_withUnits s u v (decodeByte s.cmd)

/-! ## The host's transactions and the step -/

theorem perform_withUnits (op : HostOp) :
    perform op (s.withUnits u v) = mapNext (State.withUnits u v) (perform op s) := by
  cases op with
  | regRead i => simp [perform]
  | regWrite i x =>
    by_cases hi : i = Reg.cmd.index
    · simpa [perform, hi] using runCommand_withUnits (s.regStore Reg.cmd.index x) u v
    · simp [perform, hi]
  | bufRead sp i => simp [perform]
  | bufWrite sp i x => simp [perform]
  | reset => rfl

theorem transact_withUnits (t : Transaction) :
    transact t (s.withUnits u v) = mapNext (State.withUnits u v) (transact t s) := by
  by_cases howned : s.ownedBy t.agent = true
  · simpa [transact, howned] using perform_withUnits (s.claim t.agent) u v t.op
  · simp [transact, howned]

theorem step_withUnits : step (s.withUnits u v) = mapNext (State.withUnits u v) (step s) := by
  simp only [step, nextTransaction, State.withUnits_pending]
  split
  · rfl
  · rename_i t rest _
    exact transact_withUnits { s with pending := rest } u v t

end

/-- Settles O34: the outcome commutes with replacing the units, by the oldest transaction and the command it runs. -/
theorem unitsAreInformative : Obligations.UnitsAreInformative :=
  step_withUnits

end Sys2Proof.Machine
end

section
/-! PROOFS. What each command writes (10_state.md R50). A command first writes its outputs and then ends in `done` or
`raise`, which touch ERR and STICKY alone. -/

namespace Sys2Proof.Machine

theorem State.setBufMem_memRead_ne (s : State) (sp sp' : BufSpace) (m : Memory) (i : Nat) (h : sp' ≠ sp) :
    (s.setBufMem sp m).memRead sp' i = s.memRead sp' i := by
  simp [State.memRead, State.setBufMem_bufMem_ne s sp m sp' h]

/-- The two ends of a command over the state `u` that it has written: `done` or `raise` (00_scope.md R10). -/
def State.EndsAs (u t : State) : Prop :=
  t = u.done ∨ ∃ e, t = u.raise e

theorem State.endsAs_done (u : State) : u.EndsAs u.done :=
  .inl rfl

theorem State.endsAs_raise (u : State) (e : EngineError) : u.EndsAs (u.raise e) :=
  .inr ⟨e, rfl⟩

/-- The states `u` that a command can have written from `s` before it ends: the rows of 10_state.md R50's table, without
the ERR and STICKY of the command's end. -/
def CommandOutputs (s u : State) : Instr → Prop
  | .nop | .unassigned _ | .tgQuery _ | .tgSend _ => u = s
  | .clrerr => u = s.clearSticky
  | .csclr | .csadd => ∃ v, u = s.setCsacc v
  | .encQ | .encS => ∃ m len cs, u = (s.setBufMem .tx m).setTxResult len cs
  | .dec => ∃ c r, u = s.clearDecResults.setSums c r ∨
      ∃ ack n f, u = (((s.clearDecResults.setSums c r).markFrameValid ack).setRxPlen n).setFault f
  | .unpk16 | .scupV | .scupI => ∃ v, u = s.setRaw16 v
  | .pk16 => ∃ m n, u = (s.setBufMem .pay m).setPayLen n
  | .f32bits => ∃ v, u = s.setFldW32 v
  | .scdnV | .scdnI => ∃ v, u = s.setPhys v
  | .callock => u = s ∨ u = s.lockCalibration

theorem encodeTelegram_outputs (k : RequestKind) (s t : State) (h : encodeTelegram k s = .next t) :
    ∃ u, (∃ m len cs, u = (s.setBufMem .tx m).setTxResult len cs) ∧ u.EndsAs t := by
  obtain ⟨-, rfl⟩ | ⟨-, rfl⟩ := encodeTelegram_cases k s t h
  · exact ⟨_, ⟨s.tx, 0#5, 0#16, rfl⟩, State.endsAs_raise _ _⟩
  · exact ⟨_, ⟨(s.buildTelegram k).tx, _, (s.buildTelegram k).txCs, State.buildTelegram_eq s k⟩,
      State.endsAs_done _⟩

theorem State.classifyFrame_outputs (s : State) :
    ∃ ack n f, State.EndsAs (((s.markFrameValid ack).setRxPlen n).setFault f) s.classifyFrame := by
  obtain ⟨f, -, hframe⟩ | ⟨-, hframe⟩ := State.classifyFrame_cases s
  · exact ⟨_, _, _, .inr ⟨_, hframe⟩⟩
  · exact ⟨isAck (s.memRead .rx 2) (s.memRead .rx 3), BitVec.ofNat 8 (s.frameLen - 5), s.fault, .inl hframe⟩

theorem execDec_outputs (s t : State) (h : execDec s = .next t) : ∃ u, CommandOutputs s u .dec ∧ u.EndsAs t := by
  obtain ⟨-, rfl⟩ | ⟨-, -, rfl⟩ | ⟨-, -, c, r, -, -, ⟨-, rfl⟩ | ⟨-, rfl⟩⟩ := execDec_cases s t h
  · exact ⟨_, ⟨_, _, .inl rfl⟩, State.endsAs_raise _ _⟩
  · exact ⟨_, ⟨_, _, .inl rfl⟩, State.endsAs_raise _ _⟩
  · exact ⟨_, ⟨_, _, .inl rfl⟩, State.endsAs_raise _ _⟩
  · obtain ⟨ack, n, f, hend⟩ := State.classifyFrame_outputs (s.clearDecResults.setSums c r)
    exact ⟨_, ⟨c, r, .inr ⟨ack, n, f, rfl⟩⟩, hend⟩

theorem execUnpk16_outputs (s t : State) (h : execUnpk16 s = .next t) : ∃ u, CommandOutputs s u .unpk16 ∧ u.EndsAs t := by
  obtain ⟨-, rfl⟩ | ⟨-, -, rfl⟩ | ⟨-, -, rfl⟩ := execUnpk16_cases s t h
  · exact ⟨s, ⟨s.raw16, rfl⟩, State.endsAs_raise _ _⟩
  · exact ⟨s, ⟨s.raw16, rfl⟩, State.endsAs_raise _ _⟩
  · exact ⟨_, ⟨_, rfl⟩, State.endsAs_done _⟩

theorem execPk16_outputs (s t : State) (h : execPk16 s = .next t) : ∃ u, CommandOutputs s u .pk16 ∧ u.EndsAs t := by
  rw [execPk16_eq] at h
  injection h with h
  subst h
  exact ⟨_, ⟨(s.memWriteList .pay 0 [hiByte s.raw16, loByte s.raw16]).pay, 2#5, rfl⟩, State.endsAs_done _⟩

theorem execF32bits_outputs (s t : State) (h : execF32bits s = .next t) :
    ∃ u, CommandOutputs s u .f32bits ∧ u.EndsAs t := by
  obtain ⟨-, rfl⟩ | ⟨-, -, rfl⟩ | ⟨-, -, rfl⟩ := execF32bits_cases s t h
  · exact ⟨s, ⟨s.fldW32, rfl⟩, State.endsAs_raise _ _⟩
  · exact ⟨s, ⟨s.fldW32, rfl⟩, State.endsAs_raise _ _⟩
  · exact ⟨_, ⟨_, rfl⟩, State.endsAs_done _⟩

theorem scaleUpChannel_outputs (ch : Channel) (s t : State) (h : scaleUpChannel ch s = .next t) :
    ∃ u, (∃ v, u = s.setRaw16 v) ∧ u.EndsAs t := by
  obtain ⟨-, rfl⟩ | ⟨-, -, r, -, ⟨-, rfl⟩ | ⟨-, -, rfl⟩⟩ := scaleUpChannel_cases ch s t h
  · exact ⟨s, ⟨s.raw16, rfl⟩, State.endsAs_raise _ _⟩
  · exact ⟨s, ⟨s.raw16, rfl⟩, State.endsAs_raise _ _⟩
  · exact ⟨_, ⟨_, rfl⟩, State.endsAs_done _⟩

theorem scaleDownChannel_outputs (ch : Channel) (s t : State) (h : scaleDownChannel ch s = .next t) :
    ∃ u, (∃ v, u = s.setPhys v) ∧ u.EndsAs t := by
  obtain ⟨-, rfl⟩ | ⟨-, p, -, ⟨-, rfl⟩ | ⟨-, rfl⟩⟩ := scaleDownChannel_cases ch s t h
  · exact ⟨s, ⟨s.phys, rfl⟩, State.endsAs_raise _ _⟩
  · exact ⟨s, ⟨s.phys, rfl⟩, State.endsAs_raise _ _⟩
  · exact ⟨_, ⟨_, rfl⟩, State.endsAs_done _⟩

theorem execCallock_outputs (s t : State) (h : execCallock s = .next t) : ∃ u, CommandOutputs s u .callock ∧ u.EndsAs t := by
  obtain ⟨-, rfl⟩ | ⟨-, -, rfl⟩ | ⟨-, -, -, rfl⟩ := execCallock_cases s t h
  · exact ⟨s, .inl rfl, State.endsAs_done _⟩
  · exact ⟨s, .inl rfl, State.endsAs_raise _ _⟩
  · exact ⟨_, .inr rfl, State.endsAs_done _⟩

/-- What any command can do: write its outputs, then end in `done` or `raise`. -/
theorem exec_outputs (i : Instr) (s t : State) (h : exec i s = .next t) : ∃ u, CommandOutputs s u i ∧ u.EndsAs t := by
  cases i with
  | nop => injection h with h; exact ⟨s, rfl, .inl h.symm⟩
  | clrerr => injection h with h; exact ⟨_, rfl, .inl h.symm⟩
  | csclr | csadd => injection h with h; exact ⟨_, ⟨_, rfl⟩, .inl h.symm⟩
  | unassigned _ | tgQuery _ | tgSend _ => injection h with h; exact ⟨s, rfl, .inr ⟨_, h.symm⟩⟩
  | encQ => exact encodeTelegram_outputs .query s t h
  | encS => exact encodeTelegram_outputs .send s t h
  | dec => exact execDec_outputs s t h
  | unpk16 => exact execUnpk16_outputs s t h
  | pk16 => exact execPk16_outputs s t h
  | f32bits => exact execF32bits_outputs s t h
  | scupV => exact scaleUpChannel_outputs .voltage s t h
  | scupI => exact scaleUpChannel_outputs .current s t h
  | scdnV => exact scaleDownChannel_outputs .voltage s t h
  | scdnI => exact scaleDownChannel_outputs .current s t h
  | callock => exact execCallock_outputs s t h

/-- Settles O30: each command's outputs, row by row, under either end. -/
theorem commandsWriteOnlyTheirOutputs : Obligations.CommandsWriteOnlyTheirOutputs := by
  intro i s t h
  obtain ⟨u, hout, rfl | ⟨e, rfl⟩⟩ := exec_outputs i s t h
  all_goals
    cases i with
    | nop | unassigned _ | tgQuery _ | tgSend _ | clrerr => obtain rfl := hout; simp
    | csclr | csadd | unpk16 | scupV | scupI | f32bits | scdnV | scdnI => obtain ⟨v, rfl⟩ := hout; simp
    | encQ | encS => obtain ⟨m, len, cs, rfl⟩ := hout; simp [State.setBufMem_memRead_ne]
    | dec => obtain ⟨c, r, rfl | ⟨ack, n, f, rfl⟩⟩ := hout <;> simp
    | pk16 => obtain ⟨m, n, rfl⟩ := hout; simp [State.setBufMem_memRead_ne]
    | callock => obtain rfl | rfl := hout <;> simp

end Sys2Proof.Machine
end

section
/-! PROOFS. The calibration registers (10_state.md R42): what a host write to a mapped register does, and when CALLOCK sets
the lock. -/

namespace Sys2Proof.Machine

@[simp] theorem Reg.ofIndex_index (r : Reg) : Reg.ofIndex r.index = some r := by
  cases r <;> rfl

@[simp] theorem State.regStore_index (s : State) (r : Reg) (v : Int) : s.regStore r.index v = s.storeReg r v := by
  simp [State.regStore]

/-- A host write to a mapped register other than CMD stores and runs nothing. -/
theorem perform_regWrite_index (s : State) (r : Reg) (v : Int) (hr : r ≠ .cmd) :
    perform (.regWrite r.index v) s = .next (s.storeReg r v) := by
  have hindex : r.index ≠ Reg.cmd.index := fun h => hr (by simpa using congrArg Reg.ofIndex h)
  simp [perform, hindex]

/-- From an unlocked state CALLOCK sets the lock exactly when neither nominal is 0 (43_scaler.md R168). -/
theorem execCallock_calLock_iff (s t : State) (hopen : s.status.calLock = false) (h : execCallock s = .next t) :
    t.status.calLock = true ↔ s.calV ≠ 0#32 ∧ s.calI ≠ 0#32 := by
  obtain ⟨hlock, -⟩ | ⟨-, hzero, rfl⟩ | ⟨-, hV, hI, rfl⟩ := execCallock_cases s t h
  · simp [hopen] at hlock
  · simpa [hopen, ← not_or] using hzero
  · simp [hV, hI]

/-- Settles O43: the two host writes, the frame of all commands (O30), and CALLOCK's three cases. -/
theorem calibrationWritableUntilLocked : Obligations.CalibrationWritableUntilLocked := by
  refine ⟨fun s v => perform_regWrite_index s .calV v (by decide),
    fun s v => perform_regWrite_index s .calI v (by decide), fun i s t h => ?_, fun s t hopen h => ?_⟩
  · obtain ⟨⟨-, -, -, -, -, -, hV, hI, -⟩, -⟩ := commandsWriteOnlyTheirOutputs i s t h
    exact ⟨hV, hI⟩
  · rw [execCallock_calLock_iff s t hopen h]
    bv_omega

end Sys2Proof.Machine
end

section
/-! PROOFS. RX_VALID as a voucher (10_state.md R25, R35 to R37) and the legal values of STATUS and FAULT (R25, R26). What
both speak of is the receive side of the state. A step leaves it alone, or takes RX_VALID and RX_ACK away, or is a DEC
that has just checked the frame. -/

namespace Sys2Proof.Machine

/-! ## The receive side -/

/-- The registers and bytes that RX_VALID vouches for, with RX_CAP. -/
structure ReceiveSide where
  rxValid : Bool
  rxAck : Bool
  fault : FaultReg
  rxLen : Byte
  rxPlen : Byte
  rxCscalc : Half
  rxCsrecv : Half
  rxCap : Nat
  rxByte : Nat → Byte

def State.receiveSide (s : State) : ReceiveSide :=
  { rxValid := s.status.rxValid, rxAck := s.status.rxAck, fault := s.fault, rxLen := s.rxLen, rxPlen := s.rxPlen,
    rxCscalc := s.rxCscalc, rxCsrecv := s.rxCsrecv, rxCap := s.params.rxCap, rxByte := s.memRead .rx }

theorem State.rxBytes_congr (s t : State) (n : Nat) (h : ∀ a, t.memRead .rx a = s.memRead .rx a) :
    t.rxBytes n = s.rxBytes n :=
  State.memReadList_congr t s .rx .rx n 0 0 fun k _ => h (0 + k)

theorem State.FrameVouched.of_receiveSide_eq {s t : State} (hsame : t.receiveSide = s.receiveSide)
    (hs : s.FrameVouched) : t.FrameVouched := by
  simp only [State.receiveSide, ReceiveSide.mk.injEq, funext_iff] at hsame
  obtain ⟨hvalid, hack, hfault, hlen, hplen, hcalc, hrecv, hcap, hbyte⟩ := hsame
  simpa only [State.FrameVouched, State.frameLen, State.rxBytes_congr s t _ hbyte, hvalid, hack, hfault, hlen, hplen,
    hcalc, hrecv, hcap, hbyte] using hs

/-- What a step can do to the receive side of `s`, leaving `t`. -/
inductive ReceiveStep (s t : State) : Prop
  /-- Nothing. -/
  | kept (hsame : t.receiveSide = s.receiveSide)
  /-- RX_VALID and RX_ACK are cleared, and FAULT stays or is cleared too. -/
  | cleared (hvalid : t.status.rxValid = false) (hack : t.status.rxAck = false)
      (hfault : t.fault = s.fault ∨ t.fault = FaultReg.clear)
  /-- The frame has been checked, and RX_VALID vouches for it. -/
  | checked (hvalid : t.status.rxValid = true) (hframe : t.FrameVouched)

/-- What comes before on the same receive side makes no difference. -/
theorem ReceiveStep.of_receiveSide_eq {s u t : State} (hsame : u.receiveSide = s.receiveSide) (h : ReceiveStep u t) :
    ReceiveStep s t := by
  cases h with
  | kept h => exact .kept (h.trans hsame)
  | cleared hvalid hack hfault =>
    have hu : u.fault = s.fault := congrArg ReceiveSide.fault hsame
    exact .cleared hvalid hack (hu ▸ hfault)
  | checked hvalid hframe => exact .checked hvalid hframe

/-! ## The commands -/

theorem isAck_iff (b e : Byte) : isAck b e = true ↔ b = 0xFF#8 ∧ e = 0x00#8 := by
  simp [isAck]

/-- DEC's last part, after a matching checksum, leaves a vouched frame (41_frame_codec.md R125, R127, R129). -/
theorem State.classifyFrame_frameVouched (s : State) (hmin : 5 ≤ s.frameLen) (hcap : s.frameLen ≤ s.params.rxCap)
    (hcalc : s.rxCscalc = sum16 (s.rxBytes (s.frameLen - 2)))
    (hrecv : s.rxCsrecv = be16 (s.memRead .rx (s.frameLen - 2)) (s.memRead .rx (s.frameLen - 1)))
    (hmatch : s.rxCscalc = s.rxCsrecv) (hfault : s.fault = FaultReg.clear) :
    s.classifyFrame.status.rxValid = true ∧ s.classifyFrame.FrameVouched := by
  have hplen : (BitVec.ofNat 8 (s.frameLen - 5)).toNat = s.frameLen - 5 := by
    have : s.frameLen < 256 := s.rxLen.isLt
    rw [BitVec.toNat_ofNat, Nat.mod_eq_of_lt (by omega)]
  have hsum (t : State) (hread : ∀ a, t.memRead .rx a = s.memRead .rx a) :
      s.rxCscalc = sum16 (t.rxBytes (s.frameLen - 2)) := by rw [hcalc, State.rxBytes_congr s t _ hread]
  obtain ⟨f, hf, hframe⟩ | ⟨hf, hframe⟩ := State.classifyFrame_cases s
  all_goals
    rw [hframe]
    refine ⟨rfl, fun _ => ⟨hmin, hcap, hplen, hsum _ fun a => by simp, hrecv, hmatch, isAck_iff _ _, ?_⟩⟩
  · simp [hf, FaultReg.record]
  · simp [hf, hfault, FaultReg.clear]

theorem execDec_receiveStep (s t : State) (h : execDec s = .next t) : ReceiveStep s t := by
  obtain ⟨-, rfl⟩ | ⟨-, -, rfl⟩ | ⟨hcap, hmin, c, r, hc, hr, ⟨-, rfl⟩ | ⟨hmatch, rfl⟩⟩ := execDec_cases s t h
  · exact .cleared rfl rfl (.inr rfl)
  · exact .cleared rfl rfl (.inr rfl)
  · exact .cleared rfl rfl (.inr rfl)
  · have hbytes := State.rxBytes_congr s (s.clearDecResults.setSums c r) (s.frameLen - 2) fun a => by simp
    obtain ⟨hvalid, hframe⟩ := State.classifyFrame_frameVouched (s.clearDecResults.setSums c r) hmin hcap
      (hc.trans (congrArg sum16 hbytes.symm)) hr hmatch rfl
    exact .checked hvalid hframe

theorem exec_receiveStep (i : Instr) (s t : State) (h : exec i s = .next t) : ReceiveStep s t := by
  by_cases hdec : i = .dec
  · subst hdec
    exact execDec_receiveStep s t h
  · obtain ⟨⟨-, -, -, -, hlen, -, -, -, hparams, -, -, -, -, hbyte⟩, -, -, -, hdecoder, -⟩ :=
      commandsWriteOnlyTheirOutputs i s t h
    obtain ⟨hfault, hplen, hcalc, hrecv, hvalid, hack⟩ := hdecoder hdec
    refine .kept ?_
    simp only [State.receiveSide, hvalid, hack, hfault, hlen, hplen, hcalc, hrecv, hparams, funext hbyte]

/-! ## The host's transactions and the step -/

theorem State.storeReg_receiveStep (s : State) (r : Reg) (v : Int) : ReceiveStep s (s.storeReg r v) := by
  cases r with
  | rxLen => exact .cleared rfl rfl (.inl rfl)
  | calV | calI =>
    rw [State.storeReg]
    split <;> exact .kept rfl
  | _ => exact .kept rfl

theorem State.regStore_receiveStep (s : State) (i : BitVec 8) (v : Int) : ReceiveStep s (s.regStore i v) := by
  rw [State.regStore]
  split
  · exact State.storeReg_receiveStep s _ v
  · exact .kept rfl

theorem State.bufWrite_receiveStep (s : State) (sp : BufSpace) (i : Nat) (v : Int) :
    ReceiveStep s (s.bufWrite sp i v) := by
  simp only [State.bufWrite]
  split
  · cases sp with
    | rx => exact .cleared rfl rfl (.inl rfl)
    | pay | tx => exact .kept rfl
  · exact .kept rfl

theorem perform_receiveStep (op : HostOp) (s t : State) (h : perform op s = .next t) : ReceiveStep s t := by
  obtain ⟨i, -, rfl⟩ | ⟨v, -, hrun⟩ | ⟨i, v, -, -, rfl⟩ | ⟨sp, i, -, rfl⟩ | ⟨sp, i, v, -, rfl⟩ | ⟨-, rfl⟩ :=
    perform_cases op s t h
  · exact .kept rfl
  · exact .of_receiveSide_eq (u := { s with cmd := truncTo 8 v }) rfl (exec_receiveStep _ _ t hrun)
  · exact State.regStore_receiveStep s i v
  · exact .kept rfl
  · exact State.bufWrite_receiveStep s sp i v
  · exact .cleared rfl rfl (.inr rfl)

theorem step_receiveStep (s t : State) (h : step s = .next t) : ReceiveStep s t := by
  obtain ⟨-, rfl⟩ | ⟨tr, rest, -, -, hperform⟩ := step_cases s t h
  · exact .kept rfl
  · exact .of_receiveSide_eq (u := { s with pending := rest }.claim tr.agent) rfl (perform_receiveStep tr.op _ t hperform)

/-- Settles O54: a step keeps the receive side, or clears RX_VALID, or has just checked the frame. -/
theorem stepKeepsFrameVouched : Obligations.StepKeepsFrameVouched := by
  intro s t hs h
  cases step_receiveStep s t h with
  | kept hsame => exact hs.of_receiveSide_eq hsame
  | cleared hclear => exact fun hvalid => absurd hvalid (by simp [hclear])
  | checked _ hframe => exact hframe

/-! ## The legal values of STATUS and FAULT -/

theorem EngineError.code_toNat_le (e : EngineError) : e.code.toNat ≤ 10 := by
  cases e <;> decide

theorem DeviceFault.kind_toNat_le (f : DeviceFault) : f.kind.toNat ≤ 10 := by
  cases f <;> decide

theorem DeviceFault.kind_ne_zero (f : DeviceFault) : f.kind ≠ 0#4 := by
  cases f <;> decide

/-- Only a nonzero device code names a fault (41_frame_codec.md R126). -/
theorem ne_zero_of_classify_eq_some {b e : Byte} {f : DeviceFault} (h : classify b e = some f) : e ≠ 0x00#8 := by
  rintro rfl
  simp [classify] at h

/-- The legal values of FAULT (10_state.md R26). -/
def FaultReg.Legal (f : FaultReg) : Prop :=
  f.kind.toNat ≤ 10 ∧ (f.kind = 0#4 ↔ f.code = 0#8)

theorem State.statusLegal_iff (s : State) :
    s.StatusLegal ↔ s.status.err.toNat ≤ 10 ∧ s.fault.Legal ∧ (s.status.rxAck = true → s.status.rxValid = true) := by
  simp only [State.StatusLegal, FaultReg.Legal, and_assoc]

theorem FaultReg.clear_legal : FaultReg.clear.Legal :=
  ⟨by decide, by decide⟩

theorem FaultReg.record_legal {b e : Byte} {f : DeviceFault} (h : classify b e = some f) : (FaultReg.record f e).Legal :=
  ⟨f.kind_toNat_le, by simp [FaultReg.record, f.kind_ne_zero, ne_zero_of_classify_eq_some h]⟩

/-- A vouched frame's FAULT is its classification, hence legal. -/
theorem State.FrameVouched.fault_legal {s : State} (hs : s.FrameVouched) (hvalid : s.status.rxValid = true) :
    s.fault.Legal := by
  obtain ⟨-, -, -, -, -, -, -, hfault⟩ := hs hvalid
  rw [hfault]
  split
  · rename_i f hf
    exact FaultReg.record_legal hf
  · exact FaultReg.clear_legal

theorem exec_err_le (i : Instr) (s t : State) (h : exec i s = .next t) : t.status.err.toNat ≤ 10 := by
  obtain ⟨u, -, rfl | ⟨e, rfl⟩⟩ := exec_outputs i s t h
  · simp
  · exact e.code_toNat_le

theorem State.storeReg_err (s : State) (r : Reg) (v : Int) : (s.storeReg r v).status.err = s.status.err := by
  cases r with
  | calV | calI =>
    rw [State.storeReg]
    split <;> rfl
  | _ => rfl

theorem State.regStore_err (s : State) (i : BitVec 8) (v : Int) : (s.regStore i v).status.err = s.status.err := by
  rw [State.regStore]
  split
  · exact State.storeReg_err s _ v
  · rfl

theorem State.bufWrite_err (s : State) (sp : BufSpace) (i : Nat) (v : Int) :
    (s.bufWrite sp i v).status.err = s.status.err := by
  simp only [State.bufWrite]
  split
  · cases sp <;> rfl
  · rfl

/-- A transaction leaves ERR as it is, or runs a command, or is Reset. -/
theorem perform_err_le (op : HostOp) (s t : State) (hs : s.status.err.toNat ≤ 10) (h : perform op s = .next t) :
    t.status.err.toNat ≤ 10 := by
  obtain ⟨i, -, rfl⟩ | ⟨v, -, hrun⟩ | ⟨i, v, -, -, rfl⟩ | ⟨sp, i, -, rfl⟩ | ⟨sp, i, v, -, rfl⟩ | ⟨-, rfl⟩ :=
    perform_cases op s t h
  · exact hs
  · exact exec_err_le _ _ t hrun
  · rwa [State.regStore_err]
  · exact hs
  · rwa [State.bufWrite_err]
  · exact Nat.zero_le 10

theorem step_err_le (s t : State) (hs : s.status.err.toNat ≤ 10) (h : step s = .next t) : t.status.err.toNat ≤ 10 := by
  obtain ⟨-, rfl⟩ | ⟨tr, rest, -, -, hperform⟩ := step_cases s t h
  · exact hs
  · exact perform_err_le tr.op ({ s with pending := rest }.claim tr.agent) t hs hperform

/-- Settles O50: ERR by the command's end, FAULT and RX_ACK by what the step does to the receive side. -/
theorem stepKeepsStatusLegal : Obligations.StepKeepsStatusLegal := by
  intro s t hs h
  rw [State.statusLegal_iff] at hs ⊢
  obtain ⟨herr, hfaultLegal, hackValid⟩ := hs
  refine ⟨step_err_le s t herr h, ?_⟩
  cases step_receiveStep s t h with
  | kept hsame =>
    have hfault : t.fault = s.fault := congrArg ReceiveSide.fault hsame
    have hack : t.status.rxAck = s.status.rxAck := congrArg ReceiveSide.rxAck hsame
    have hvalid : t.status.rxValid = s.status.rxValid := congrArg ReceiveSide.rxValid hsame
    rw [hfault, hack, hvalid]
    exact ⟨hfaultLegal, hackValid⟩
  | cleared _ hack hfault =>
    refine ⟨?_, by simp [hack]⟩
    obtain hfault | hfault := hfault
    · rwa [hfault]
    · rw [hfault]
      exact FaultReg.clear_legal
  | checked hvalid hframe => exact ⟨hframe.fault_legal hvalid, fun _ => hvalid⟩

end Sys2Proof.Machine
end

section
/-! PROOFS. ENC and DEC have an adder of their own (10_state.md R27): each of their reads gives the same with CSACC
replaced, and each of their writes commutes with replacing it. -/

namespace Sys2Proof.Machine

section
variable (s : State) (x : Half)

@[simp] theorem State.withCsacc_txNode : (s.withCsacc x).txNode = s.txNode := rfl
@[simp] theorem State.withCsacc_txObj : (s.withCsacc x).txObj = s.txObj := rfl
@[simp] theorem State.withCsacc_payLen : (s.withCsacc x).payLen = s.payLen := rfl
@[simp] theorem State.withCsacc_params : (s.withCsacc x).params = s.params := rfl
@[simp] theorem State.withCsacc_frameLen : (s.withCsacc x).frameLen = s.frameLen := rfl

@[simp] theorem State.withCsacc_memRead (sp : BufSpace) (i : Nat) : (s.withCsacc x).memRead sp i = s.memRead sp i := by
  cases sp <;> rfl

@[simp] theorem State.withCsacc_memReadList (sp : BufSpace) (i n : Nat) :
    (s.withCsacc x).memReadList sp i n = s.memReadList sp i n :=
  State.memReadList_congr _ s sp sp n i i fun k _ => s.withCsacc_memRead x sp (i + k)

@[simp] theorem State.withCsacc_rxBytes (n : Nat) : (s.withCsacc x).rxBytes n = s.rxBytes n :=
  s.withCsacc_memReadList x .rx 0 n

@[simp] theorem State.withCsacc_raise (e : EngineError) : (s.withCsacc x).raise e = (s.raise e).withCsacc x := rfl

@[simp] theorem State.withCsacc_done : (s.withCsacc x).done = s.done.withCsacc x := rfl

@[simp] theorem State.withCsacc_setTxResult (len : BitVec 5) (cs : Half) :
    (s.withCsacc x).setTxResult len cs = (s.setTxResult len cs).withCsacc x := rfl

@[simp] theorem State.withCsacc_memWrite (sp : BufSpace) (i : Nat) (b : Byte) :
    (s.withCsacc x).memWrite sp i b = (s.memWrite sp i b).withCsacc x := by
  cases sp <;> rfl

@[simp] theorem State.withCsacc_memWriteList (sp : BufSpace) (bs : List Byte) :
    ∀ (s : State) (i : Nat), (s.withCsacc x).memWriteList sp i bs = (s.memWriteList sp i bs).withCsacc x := by
  induction bs with
  | nil => intro s i; rfl
  | cons b bs ih => intro s i; simp only [State.memWriteList, State.withCsacc_memWrite, ih]

@[simp] theorem State.withCsacc_clearDecResults : (s.withCsacc x).clearDecResults = s.clearDecResults.withCsacc x := rfl

@[simp] theorem State.withCsacc_setSums (c r : Half) :
    (s.withCsacc x).setSums c r = (s.setSums c r).withCsacc x := rfl

/-- The encoder reads its checksum back over its own writes, which commute with replacing CSACC. -/
theorem State.withCsacc_buildTelegram (k : RequestKind) :
    (s.withCsacc x).buildTelegram k = (s.buildTelegram k).withCsacc x := by
  simp [State.buildTelegram, State.payload, State.txBytes]

theorem State.withCsacc_classifyFrame : (s.withCsacc x).classifyFrame = s.classifyFrame.withCsacc x := by
  simp only [State.classifyFrame, State.withCsacc_memRead]
  split <;> rfl

theorem encodeTelegram_withCsacc (k : RequestKind) :
    encodeTelegram k (s.withCsacc x) = mapNext (State.withCsacc x) (encodeTelegram k s) := by
  by_cases hlen : 16 < s.payLen.toNat
  · simp [encodeTelegram, hlen]
  · simp [encodeTelegram, hlen, State.withCsacc_buildTelegram]

theorem execDec_withCsacc : execDec (s.withCsacc x) = mapNext (State.withCsacc x) (execDec s) := by
  by_cases hcap : s.params.rxCap < s.frameLen
  · simp [execDec, hcap]
  by_cases hmin : s.frameLen < 5
  · simp [execDec, hcap, hmin]
  by_cases hsum : sum16 (s.rxBytes (s.frameLen - 2)) =
      be16 (s.memRead .rx (s.frameLen - 2)) (s.memRead .rx (s.frameLen - 1))
  · simp [execDec, hcap, hmin, hsum, State.withCsacc_classifyFrame]
  · simp [execDec, hcap, hmin, hsum]

end

/-- Settles O33: the encoder for either request kind, and the decoder check by check. -/
theorem codecIgnoresAccumulator : Obligations.CodecIgnoresAccumulator := by
  intro i hi s x
  simp only [List.mem_cons, List.not_mem_nil, or_false] at hi
  obtain rfl | rfl | rfl := hi
  · exact encodeTelegram_withCsacc s x .query
  · exact encodeTelegram_withCsacc s x .send
  · exact execDec_withCsacc s x

end Sys2Proof.Machine
end

section
/-! PROOFS. The host's register accesses (20_memory.md R61, R62, R68): which index is which register, what a read gives,
and what a write stores and leaves alone. -/

namespace Sys2Proof.Machine

/-! ## The register map -/

theorem Reg.index_toNat_lt (r : Reg) : r.index.toNat < 0x14 := by
  cases r <;> decide

theorem Reg.index_injective {q r : Reg} (h : q.index = r.index) : q = r := by
  simpa using congrArg Reg.ofIndex h

theorem Reg.index_of_ofIndex_eq_some {i : BitVec 8} {r : Reg} (h : Reg.ofIndex i = some r) : r.index = i := by
  simpa using List.find?_some h

/-- The indices from 0x14 on are unmapped (10_state.md R23). -/
theorem Reg.ofIndex_eq_none {i : BitVec 8} (hi : 0x14 ≤ i.toNat) : Reg.ofIndex i = none := by
  cases h : Reg.ofIndex i with
  | none => rfl
  | some r =>
    have hlt := r.index_toNat_lt
    rw [Reg.index_of_ofIndex_eq_some h] at hlt
    omega

@[simp] theorem State.regRead_index (s : State) (r : Reg) : s.regRead r.index = s.readReg r := by
  simp [State.regRead]

theorem State.regRead_unmapped (s : State) {i : BitVec 8} (hi : 0x14 ≤ i.toNat) : s.regRead i = 0#32 := by
  simp [State.regRead, Reg.ofIndex_eq_none hi]

theorem State.regStore_unmapped (s : State) {i : BitVec 8} (hi : 0x14 ≤ i.toNat) (v : Int) : s.regStore i v = s := by
  simp [State.regStore, Reg.ofIndex_eq_none hi]

/-! ## Reads -/

theorem toNat_append_eq_add {m n : Nat} (x : BitVec m) (y : BitVec n) : (x ++ y).toNat = x.toNat * 2 ^ n + y.toNat := by
  rw [BitVec.toNat_append, ← Nat.shiftLeft_add_eq_or_of_lt y.isLt, Nat.shiftLeft_eq]

theorem toNat_ofBool_eq_bit (b : Bool) : (BitVec.ofBool b).toNat = bit b := by
  cases b <;> rfl

/-- STATUS as a number: each field at its bit position (10_state.md R25). -/
theorem Status.word_toNat (t : Status) :
    t.word.toNat =
      t.err.toNat + 16 * bit t.sticky + 32 * bit t.rxValid + 64 * bit t.rxAck + 128 * bit t.calLock := by
  simp only [Status.word, toNat_append_eq_add, toNat_ofBool_eq_bit, BitVec.toNat_ofNat]
  omega

/-- FAULT as a number (10_state.md R26). -/
theorem FaultReg.word_toNat (f : FaultReg) : f.word.toNat = f.kind.toNat + 256 * f.code.toNat := by
  simp only [FaultReg.word, toNat_append_eq_add, BitVec.toNat_ofNat]
  omega

/-- The table of indices and numbers is the register map read register by register. -/
theorem State.registerRows_eq (s : State) :
    s.registerRows = allRegs.map fun r => (r.index, (s.readReg r).toNat) := by
  simp [-BitVec.toNat_setWidth, State.registerRows, allRegs, Reg.index, State.readReg, BitVec.toNat_setWidth_of_le,
    Status.word_toNat, FaultReg.word_toNat]

/-- Settles O40: the read hands over the register's value, and the table lists those values. -/
theorem registerReadsReturnValues : Obligations.RegisterReadsReturnValues := by
  intro s i
  refine ⟨s.regRead i, rfl, fun row hrow hi => ?_⟩
  rw [State.registerRows_eq, List.mem_map] at hrow
  obtain ⟨r, -, rfl⟩ := hrow
  rw [hi, State.regRead_index]

/-! ## Writes -/

/-- `trunc_N(v)` is v modulo 2 to the N (00_scope.md R9). -/
theorem toNat_truncTo (n : Nat) (v : Int) : ((truncTo n v).toNat : Int) = v % 2 ^ n := by
  rw [truncTo, BitVec.toNat_ofInt, Int.toNat_of_nonneg (Int.emod_nonneg v (by positivity))]
  norm_cast

theorem toNat_setWidth_truncTo {n : Nat} (v : Int) (hn : n ≤ 32) :
    (((truncTo n v).setWidth 32).toNat : Int) = v % 2 ^ n := by
  rw [BitVec.toNat_setWidth_of_le hn, toNat_truncTo]

/-- Each writable index is a register that reads what was written, cut to its width. -/
theorem exists_reg_of_mem_writableRegisters {p : BitVec 8 × Nat} (hp : p ∈ writableRegisters) :
    ∃ r : Reg, r ≠ .cmd ∧ r.index = p.1 ∧
      ∀ (s : State) (v : Int), (((s.storeReg r v).readReg r).toNat : Int) = v % 2 ^ p.2 := by
  simp only [writableRegisters, List.mem_cons, List.not_mem_nil, or_false] at hp
  obtain rfl | rfl | rfl | rfl | rfl | rfl | rfl | rfl | rfl := hp
  · exact ⟨.csacc, by decide, rfl, fun _ v => toNat_setWidth_truncTo v (by decide)⟩
  · exact ⟨.csIn, by decide, rfl, fun _ v => toNat_setWidth_truncTo v (by decide)⟩
  · exact ⟨.txNode, by decide, rfl, fun _ v => toNat_setWidth_truncTo v (by decide)⟩
  · exact ⟨.txObj, by decide, rfl, fun _ v => toNat_setWidth_truncTo v (by decide)⟩
  · exact ⟨.payLen, by decide, rfl, fun _ v => toNat_setWidth_truncTo v (by decide)⟩
  · exact ⟨.rxLen, by decide, rfl, fun _ v => toNat_setWidth_truncTo v (by decide)⟩
  · exact ⟨.fldOff, by decide, rfl, fun _ v => toNat_setWidth_truncTo v (by decide)⟩
  · exact ⟨.raw16, by decide, rfl, fun _ v => toNat_setWidth_truncTo v (by decide)⟩
  · exact ⟨.phys, by decide, rfl, fun _ v => toNat_truncTo 32 v⟩

/-- A write stores into one register alone, but for STATUS. -/
theorem State.readReg_storeReg_ne (s : State) (r q : Reg) (v : Int) (hq : q ≠ r) (hstatus : q ≠ .status) :
    (s.storeReg r v).readReg q = s.readReg q := by
  cases r with
  | calV | calI =>
    rw [State.storeReg]
    split
    · rfl
    · cases q <;> simp [State.readReg] at hq ⊢
  | _ => cases q <;> simp [State.storeReg, State.readReg] at hq hstatus ⊢

theorem State.regRead_storeReg_ne (s : State) (r : Reg) (j : BitVec 8) (v : Int) (hj : j ≠ r.index)
    (hstatus : j ≠ Reg.status.index) : (s.storeReg r v).regRead j = s.regRead j := by
  cases h : Reg.ofIndex j with
  | none => simp only [State.regRead, h]
  | some q =>
    obtain rfl := Reg.index_of_ofIndex_eq_some h
    simp only [State.regRead_index]
    exact s.readReg_storeReg_ne r q v (fun e => hj (congrArg Reg.index e)) (fun e => hstatus (congrArg Reg.index e))

/-- Of STATUS a write touches only the two flags that a write to RX_LEN clears (20_memory.md R68). -/
theorem State.storeReg_status (s : State) (r : Reg) (v : Int) :
    (s.storeReg r v).status = if r = .rxLen then { s.status with rxValid := false, rxAck := false } else s.status := by
  cases r with
  | calV | calI =>
    rw [State.storeReg]
    split <;> rfl
  | _ => rfl

/-- The buffers, the parameters and the model's own fields are the same; the registers may differ. -/
structure State.SameButRegisters (s t : State) : Prop where
  pay : t.pay = s.pay
  tx : t.tx = s.tx
  rx : t.rx = s.rx
  params : t.params = s.params
  pending : t.pending = s.pending
  replies : t.replies = s.replies
  owner : t.owner = s.owner
  epoch : t.epoch = s.epoch

theorem State.SameButRegisters.refl (s : State) : s.SameButRegisters s := by
  constructor <;> rfl

theorem State.SameButRegisters.buffersSame {s t : State} (h : s.SameButRegisters t) : BuffersSame s t := by
  intro sp i
  cases sp <;> simp only [State.memRead, State.bufMem, h.pay, h.tx, h.rx, h.epoch]

theorem State.storeReg_sameButRegisters (s : State) (r : Reg) (v : Int) : s.SameButRegisters (s.storeReg r v) := by
  cases r with
  | calV | calI =>
    rw [State.storeReg]
    split <;> constructor <;> rfl
  | _ => constructor <;> rfl

/-- Settles O41: what the written register, the other registers, STATUS and everything else become. -/
theorem registerWritesStoreTruncated : Obligations.RegisterWritesStoreTruncated := by
  intro p hp s v
  obtain ⟨r, hcmd, hindex, hstore⟩ := exists_reg_of_mem_writableRegisters hp
  rw [← hindex]
  have hrest := s.storeReg_sameButRegisters r v
  have hrxLen : r.index = 0x0A#8 ↔ r = .rxLen := ⟨Reg.index_injective (r := .rxLen), fun e => e ▸ rfl⟩
  refine ⟨s.storeReg r v, perform_regWrite_index s r v hcmd, ?_, fun j hj hstatus => ?_, ?_, hrest.buffersSame,
    hrest.params, hrest.epoch, hrest.replies, hrest.pending, hrest.owner⟩
  · rw [State.regRead_index, hstore]
  · exact s.regRead_storeReg_ne r j v hj hstatus
  · simp only [State.storeReg_status, hrxLen]

/-- Settles O42: the eight indices are registers into which a write stores nothing. -/
theorem readOnlyWritesIgnored : Obligations.ReadOnlyWritesIgnored := by
  intro i hi s v
  simp only [readOnlyRegisters, List.mem_cons, List.not_mem_nil, or_false] at hi
  obtain rfl | rfl | rfl | rfl | rfl | rfl | rfl | rfl := hi
  · exact perform_regWrite_index s .status v (by decide)
  · exact perform_regWrite_index s .fault v (by decide)
  · exact perform_regWrite_index s .txLen v (by decide)
  · exact perform_regWrite_index s .txCs v (by decide)
  · exact perform_regWrite_index s .rxPlen v (by decide)
  · exact perform_regWrite_index s .rxCscalc v (by decide)
  · exact perform_regWrite_index s .rxCsrecv v (by decide)
  · exact perform_regWrite_index s .fldW32 v (by decide)

theorem perform_regWrite_of_ne (s : State) {i : BitVec 8} (hi : i ≠ 0x00#8) (v : Int) :
    perform (.regWrite i v) s = .next (s.regStore i v) :=
  if_neg hi

theorem State.storeReg_storeReg (s : State) (r : Reg) (v : Int) : (s.storeReg r v).storeReg r v = s.storeReg r v := by
  cases r with
  | calV | calI => by_cases hlock : s.status.calLock = true <;> simp [State.storeReg, hlock]
  | _ => rfl

theorem State.regStore_regStore (s : State) (i : BitVec 8) (v : Int) : (s.regStore i v).regStore i v = s.regStore i v := by
  cases h : Reg.ofIndex i with
  | none => simp only [State.regStore, h]
  | some r => simp only [State.regStore, h, State.storeReg_storeReg]

end Sys2Proof.Machine
end

section
/-! PROOFS. The host's buffer accesses (20_memory.md R61, R62, R68): one equation for each case of a read and of a write. -/

namespace Sys2Proof.Machine

section
variable (s : State) (sp : BufSpace) (i : Nat) (v : Int)

theorem State.bufRead_of_lt (hi : i < s.bufSize sp) : s.bufRead sp i = s.memRead sp i :=
  if_pos hi

theorem State.bufRead_of_le (hi : s.bufSize sp ≤ i) : s.bufRead sp i = 0#8 :=
  if_neg (Nat.not_lt.mpr hi)

theorem State.bufWrite_pay (hi : i < 16) : s.bufWrite .pay i v = s.memWrite .pay i (truncTo 8 v) :=
  if_pos hi

theorem State.bufWrite_rx (hi : i < s.params.rxCap) :
    s.bufWrite .rx i v = (s.memWrite .rx i (truncTo 8 v)).clearRxFlags :=
  if_pos hi

theorem State.bufWrite_tx : s.bufWrite .tx i v = s :=
  ite_self s

theorem State.bufWrite_of_le (hi : s.bufSize sp ≤ i) : s.bufWrite sp i v = s :=
  if_neg (Nat.not_lt.mpr hi)

end

/-- Writing a byte leaves every other byte of the three buffers as it was. -/
theorem State.memWrite_buffersSameBut (s : State) (sp : BufSpace) (i : Nat) (b : Byte) :
    BuffersSameBut sp i 1 s (s.memWrite sp i b) := fun sp' a h =>
  s.memRead_memWrite_ne sp sp' i a b fun ⟨hsp, ha⟩ => h ⟨hsp, by omega, by omega⟩

/-- Settles O44: unmapped registers, then buffer indices outside the range. -/
theorem absentLocationsReadZeroIgnoreWrites : Obligations.AbsentLocationsReadZeroIgnoreWrites := by
  refine ⟨fun s i hi => ?_, fun s i v hi => ?_, fun s sp i hi => ?_, fun s sp i v h => ?_⟩
  · rw [perform, s.regRead_unmapped hi]
    rfl
  · have hcmd : i ≠ 0x00#8 := by rintro rfl; simp at hi
    rw [perform_regWrite_of_ne s hcmd, s.regStore_unmapped hi]
  · rw [perform, s.bufRead_of_le sp i hi]
    rfl
  · obtain rfl | hi := h
    · rw [perform, s.bufWrite_tx]
    · rw [perform, s.bufWrite_of_le sp i v hi]

/-- Settles O45: a write to PAYBUF, a write to RXBUF, and a read. -/
theorem bufferAccessesMoveOneByte : Obligations.BufferAccessesMoveOneByte := by
  refine ⟨fun s i v hi => ?_, fun s i v hi => ?_, fun s i sp hi => ?_⟩
  · exact ⟨_, congrArg Host.Outcome.next (s.bufWrite_pay i v hi), s.memRead_memWrite_same .pay i _,
      s.memWrite_buffersSameBut .pay i _, rfl⟩
  · exact ⟨_, congrArg Host.Outcome.next (s.bufWrite_rx i v hi), s.memRead_memWrite_same .rx i _,
      s.memWrite_buffersSameBut .rx i _, rfl⟩
  · rw [perform, s.bufRead_of_lt sp i hi]
    rfl

theorem Memory.write_write (m : Memory) (a : Nat) (b : Byte) :
    Memory.write (Memory.write m a b) a b = Memory.write m a b := by
  induction m with
  | nil => simp [Memory.write]
  | cons kc m ih =>
    obtain ⟨k, c⟩ := kc
    by_cases hlt : a < k
    · simp [Memory.write, hlt]
    by_cases heq : a = k
    · simp [Memory.write, heq]
    · simp [Memory.write, hlt, heq, ih]

@[simp] theorem State.bufWrite_bufSize (s : State) (sp sp' : BufSpace) (i : Nat) (v : Int) :
    (s.bufWrite sp i v).bufSize sp' = s.bufSize sp' := by
  have hparams : (s.bufWrite sp i v).params = s.params := by
    simp only [State.bufWrite]
    split
    · cases sp <;> rfl
    · rfl
  cases sp' <;> simp only [State.bufSize, hparams]

theorem State.bufWrite_bufWrite (s : State) (sp : BufSpace) (i : Nat) (v : Int) :
    (s.bufWrite sp i v).bufWrite sp i v = s.bufWrite sp i v := by
  by_cases hi : i < s.bufSize sp
  · cases sp with
    | pay =>
      simp only [State.bufWrite_pay _ i v hi, State.memWrite, State.setBufMem, State.bufMem, Memory.write_write]
    | tx => simp only [State.bufWrite_tx]
    | rx =>
      rw [s.bufWrite_rx i v hi, State.bufWrite_rx (s.memWrite .rx i _).clearRxFlags i v hi]
      simp only [State.memWrite, State.setBufMem, State.bufMem, State.clearRxFlags, Memory.write_write]
  · have hi' := Nat.not_lt.mp hi
    simp only [s.bufWrite_of_le sp i v hi']

/-- Settles O46: a store, and a buffer write, done twice. -/
theorem hostWritesAreIdempotent : Obligations.HostWritesAreIdempotent := by
  refine ⟨fun s t i v hi h => ?_, fun s t sp i v h => ?_⟩
  · rw [perform_regWrite_of_ne s hi] at h
    injection h with h
    rw [perform_regWrite_of_ne t hi, ← h, s.regStore_regStore]
  · injection h with h
    rw [perform, ← h, s.bufWrite_bufWrite]

end Sys2Proof.Machine
end

section
/-! PROOFS. The step as the oldest transaction (20_memory.md R66, R71), and that from a sound calibration only a second
agent stops the machine (20_memory.md R70, 60_exceptions.md R203). -/

namespace Sys2Proof.Machine

section
variable {s : State} {tr : Transaction} {rest : List Transaction}

theorem step_of_ownedBy (hp : s.pending = tr :: rest) (ho : s.ownedBy tr.agent = true) :
    step s = perform tr.op ({ s with pending := rest }.claim tr.agent) := by
  rw [step, nextTransaction, hp]
  exact if_pos ho

theorem step_of_not_ownedBy (hp : s.pending = tr :: rest) (ho : ¬s.ownedBy tr.agent = true) :
    step s = .refused .secondHost := by
  rw [step, nextTransaction, hp]
  exact if_neg ho

end

/-- Settles O37: the queue's head is taken, and its agent may act. -/
theorem stepPerformsOldestTransaction : Obligations.StepPerformsOldestTransaction := by
  rintro s a op rest ⟨hp, ho⟩
  exact step_of_ownedBy hp ho

/-- What is not this agent's has been used by another (60_exceptions.md R212). -/
theorem State.exists_owner_of_not_ownedBy {s : State} {agent : Nat} (h : ¬s.ownedBy agent = true) :
    ∃ a, s.owner = some a ∧ agent ≠ a := by
  cases ho : s.owner with
  | none => simp [State.ownedBy, ho] at h
  | some a => exact ⟨a, rfl, fun e => h (by simp [State.ownedBy, ho, e])⟩

/-! ## Every command and every transaction ends in a next state -/

theorem encodeTelegram_next (k : RequestKind) (s : State) : ∃ t, encodeTelegram k s = .next t := by
  rw [encodeTelegram]
  split <;> exact ⟨_, rfl⟩

theorem execDec_next (s : State) : ∃ t, execDec s = .next t := by
  simp only [execDec]
  split_ifs <;> exact ⟨_, rfl⟩

theorem execUnpk16_next (s : State) : ∃ t, execUnpk16 s = .next t := by
  simp only [execUnpk16]
  split_ifs <;> exact ⟨_, rfl⟩

theorem execF32bits_next (s : State) : ∃ t, execF32bits s = .next t := by
  rw [execF32bits]
  split_ifs <;> exact ⟨_, rfl⟩

theorem scaleDownChannel_next (ch : Channel) (s : State) : ∃ t, scaleDownChannel ch s = .next t := by
  simp only [scaleDownChannel]
  split_ifs <;> exact ⟨_, rfl⟩

theorem execCallock_next (s : State) : ∃ t, execCallock s = .next t := by
  rw [execCallock]
  split_ifs <;> exact ⟨_, rfl⟩

/-- SCUP's one stop needs a zero nominal, which a set lock excludes (43_scaler.md R162). -/
theorem scaleUpChannel_next (ch : Channel) (s : State) (hs : s.CalibrationSound) :
    ∃ t, scaleUpChannel ch s = .next t := by
  by_cases hopen : s.status.calLock = false
  · exact ⟨_, if_pos hopen⟩
  obtain ⟨hV, hI⟩ := hs (by simpa using hopen)
  have hnominal : s.nominal ch ≠ 0#32 := by cases ch <;> assumption
  simp only [scaleUpChannel, if_neg hopen, if_neg hnominal]
  split_ifs <;> exact ⟨_, rfl⟩

theorem exec_next (i : Instr) (s : State) (hs : s.CalibrationSound) : ∃ t, exec i s = .next t := by
  cases i with
  | nop | clrerr | csclr | csadd | pk16 | unassigned _ | tgQuery _ | tgSend _ => exact ⟨_, rfl⟩
  | encQ => exact encodeTelegram_next .query s
  | encS => exact encodeTelegram_next .send s
  | dec => exact execDec_next s
  | unpk16 => exact execUnpk16_next s
  | f32bits => exact execF32bits_next s
  | scupV => exact scaleUpChannel_next .voltage s hs
  | scupI => exact scaleUpChannel_next .current s hs
  | scdnV => exact scaleDownChannel_next .voltage s
  | scdnI => exact scaleDownChannel_next .current s
  | callock => exact execCallock_next s

theorem perform_next (op : HostOp) (s : State) (hs : s.CalibrationSound) : ∃ t, perform op s = .next t := by
  cases op with
  | regWrite i v =>
    by_cases hi : i = 0x00#8
    · subst hi
      exact exec_next (decodeByte (truncTo 8 v)) { s with cmd := truncTo 8 v } hs
    · exact ⟨_, perform_regWrite_of_ne s hi v⟩
  | regRead _ | bufRead _ _ | bufWrite _ _ _ | reset => exact ⟨_, rfl⟩

/-- Settles O32: an idle step, a transaction of the owning agent, and one of another agent. -/
theorem stepStopsOnlyForSecondHost : Obligations.StepStopsOnlyForSecondHost := by
  intro s hs
  cases hp : s.pending with
  | nil => exact .inl ⟨s, by rw [step, nextTransaction, hp]⟩
  | cons tr rest =>
    by_cases ho : s.ownedBy tr.agent = true
    · rw [step_of_ownedBy hp ho]
      exact .inl (perform_next tr.op ({ s with pending := rest }.claim tr.agent) hs)
    · obtain ⟨a, howner, hne⟩ := State.exists_owner_of_not_ownedBy ho
      exact .inr ⟨step_of_not_ownedBy hp ho, tr, rest, a, rfl, howner, hne⟩

end Sys2Proof.Machine
end

section
/-! PROOFS. The canonical form of the three buffers (log 5; sizes 20_memory.md R60). Only ENC, PK16, a host buffer write
and Reset change a listing, and each keeps its addresses inside the space. -/

namespace Sys2Proof.Machine

theorem State.memoryWf_iff (s : State) :
    s.memoryWf = true ↔ ∀ sp, Memory.wf (s.bufSize sp) (s.bufMem sp) = true := by
  simp only [State.memoryWf, Bool.and_eq_true, and_assoc]
  exact ⟨fun ⟨hpay, htx, hrx⟩ sp => by cases sp <;> assumption, fun h => ⟨h .pay, h .tx, h .rx⟩⟩

/-- Replacing one listing by a canonical one keeps the form. -/
theorem State.setBufMem_memoryWf {s : State} (hs : s.memoryWf = true) (sp : BufSpace) {m : Memory}
    (hm : Memory.wf (s.bufSize sp) m = true) : (s.setBufMem sp m).memoryWf = true := by
  rw [State.memoryWf_iff] at hs ⊢
  intro sp'
  have hsize : (s.setBufMem sp m).bufSize sp' = s.bufSize sp' := by cases sp' <;> simp [State.bufSize]
  rw [hsize]
  by_cases hsp : sp' = sp
  · subst hsp
    rwa [State.setBufMem_bufMem]
  · rw [State.setBufMem_bufMem_ne s sp m sp' hsp]
    exact hs sp'

theorem State.SameButRegisters.memoryWf {s t : State} (h : s.SameButRegisters t) (hs : s.memoryWf = true) :
    t.memoryWf = true := by
  simpa only [State.memoryWf, h.pay, h.tx, h.rx, h.params] using hs

/-! ## The commands -/

theorem encodeTelegram_memoryWf (k : RequestKind) (s t : State) (hs : s.memoryWf = true)
    (h : encodeTelegram k s = .next t) : t.memoryWf = true := by
  obtain ⟨-, rfl⟩ | ⟨hlen, rfl⟩ := encodeTelegram_cases k s t h
  · exact hs
  · have htx := s.buildTelegram_wf k hlen (s.memoryWf_iff.mp hs .tx)
    rw [State.buildTelegram_eq]
    exact State.setBufMem_memoryWf hs .tx htx

theorem execPk16_memoryWf (s t : State) (hs : s.memoryWf = true) (h : execPk16 s = .next t) : t.memoryWf = true := by
  rw [execPk16_eq] at h
  injection h with h
  subst h
  exact State.setBufMem_memoryWf hs .pay
    (State.memWriteList_wf .pay maxPayload _ s 0 (by simp) (s.memoryWf_iff.mp hs .pay))

/-- The other commands write registers alone (10_state.md R50). -/
theorem exec_sameButRegisters (i : Instr) (s t : State) (hi : i ∉ [Instr.encQ, .encS, .pk16])
    (h : exec i s = .next t) : s.SameButRegisters t := by
  obtain ⟨u, hout, rfl | ⟨e, rfl⟩⟩ := exec_outputs i s t h
  all_goals
    cases i with
    | encQ | encS | pk16 => simp at hi
    | nop | unassigned _ | tgQuery _ | tgSend _ | clrerr => obtain rfl := hout; constructor <;> rfl
    | csclr | csadd | unpk16 | scupV | scupI | f32bits | scdnV | scdnI => obtain ⟨v, rfl⟩ := hout; constructor <;> rfl
    | dec => obtain ⟨c, r, rfl | ⟨ack, n, f, rfl⟩⟩ := hout <;> constructor <;> rfl
    | callock => obtain rfl | rfl := hout <;> constructor <;> rfl

theorem exec_memoryWf (i : Instr) (s t : State) (hs : s.memoryWf = true) (h : exec i s = .next t) :
    t.memoryWf = true := by
  cases i with
  | encQ => exact encodeTelegram_memoryWf .query s t hs h
  | encS => exact encodeTelegram_memoryWf .send s t hs h
  | pk16 => exact execPk16_memoryWf s t hs h
  | _ => exact (exec_sameButRegisters _ s t (by simp) h).memoryWf hs

/-! ## The host's transactions and the step -/

theorem State.regStore_sameButRegisters (s : State) (i : BitVec 8) (v : Int) : s.SameButRegisters (s.regStore i v) := by
  rw [State.regStore]
  split
  · exact s.storeReg_sameButRegisters _ v
  · exact .refl s

theorem State.bufWrite_memoryWf (s : State) (sp : BufSpace) (i : Nat) (v : Int) (hs : s.memoryWf = true) :
    (s.bufWrite sp i v).memoryWf = true := by
  rw [State.memoryWf_iff] at hs ⊢
  intro sp'
  rw [State.bufWrite_bufSize]
  exact s.bufWrite_wf sp sp' i v (hs sp')

theorem perform_memoryWf (op : HostOp) (s t : State) (hs : s.memoryWf = true) (h : perform op s = .next t) :
    t.memoryWf = true := by
  obtain ⟨i, -, rfl⟩ | ⟨v, -, hrun⟩ | ⟨i, v, -, -, rfl⟩ | ⟨sp, i, -, rfl⟩ | ⟨sp, i, v, -, rfl⟩ | ⟨-, rfl⟩ :=
    perform_cases op s t h
  · exact hs
  · exact exec_memoryWf _ { s with cmd := truncTo 8 v } t hs hrun
  · exact (s.regStore_sameButRegisters i v).memoryWf hs
  · exact hs
  · exact s.bufWrite_memoryWf sp i v hs
  · exact (State.memoryWf_iff _).mpr fun sp => s.hardReset_memory_wf _ sp

/-- Settles O52: an idle step, or one transaction of the owning agent. -/
theorem stepKeepsMemoryCanonical : Obligations.StepKeepsMemoryCanonical := by
  intro s t hs h
  obtain ⟨-, rfl⟩ | ⟨tr, rest, -, -, hperform⟩ := step_cases s t h
  · exact hs
  · exact perform_memoryWf tr.op ({ s with pending := rest }.claim tr.agent) t hs hperform

end Sys2Proof.Machine
end

section
/-! PROOFS. Command words and start delimiters (30_encoding.md R81, R86 to R91). A start delimiter is its kind's high
nibble over the length nibble, and a byte is one of three things: a code of the opcode map, a start delimiter, or the
word of a well-formed unassigned instruction. On each of the three, `decodeByte` inverts `encode`. -/

namespace Sys2Proof.Machine

/-! ## Start delimiters as two nibbles -/

/-- Bits 7:4 of a request's start delimiter: 0x3 plus the high nibble of the type code (30_encoding.md R81). -/
def RequestKind.highNibble : RequestKind → BitVec 4
  | .query => 0x7#4
  | .send => 0xF#4

/-- The opcode table's start-delimiter row of a kind (30_encoding.md R91, log 7). -/
def RequestKind.delimiterRow : RequestKind → BitVec 4 → Instr
  | .query => .tgQuery
  | .send => .tgSend

theorem encode_delimiterRow (k : RequestKind) (l : BitVec 4) : encode (k.delimiterRow l) = [k.highNibble ++ l] := by
  cases k <;> rfl

theorem RequestKind.delimiterRow_wellFormed (k : RequestKind) (l : BitVec 4) :
    (k.delimiterRow l).wellFormed = true := by
  cases k <;> rfl

theorem RequestKind.sdBase_add_typeCode_toNat (k : RequestKind) :
    (sdBase + k.typeCode).toNat = k.highNibble.toNat * 16 := by
  cases k <;> rfl

theorem highNibble_append_eq_iff (c : Byte) (k : RequestKind) (l : BitVec 4) :
    c = k.highNibble ++ l ↔ c.extractLsb' 4 4 = k.highNibble ∧ c.extractLsb' 0 4 = l := by
  constructor
  · rintro rfl
    exact ⟨BitVec.extractLsb'_append_eq_left, BitVec.extractLsb'_append_eq_right⟩
  · rintro ⟨hhigh, hlow⟩
    rw [← hhigh, ← hlow]
    exact (BitVec.extractLsb'_append_extractLsb' (w := 4) (len := 4)).symm

/-- The reader accepts exactly the two-nibble bytes. -/
theorem classifyDelimiter_eq_some_iff (c : Byte) (k : RequestKind) (l : BitVec 4) :
    classifyDelimiter c = some (k, l) ↔ c = k.highNibble ++ l := by
  rw [highNibble_append_eq_iff, classifyDelimiter]
  split
  next hquery => cases k <;> simp [hquery, RequestKind.highNibble]
  next hquery =>
    split
    next hsend => cases k <;> simp [hsend, RequestKind.highNibble]
    next hsend => cases k <;> simp [hquery, hsend, RequestKind.highNibble]

/-- The two high nibbles are those whose low three bits are set. -/
theorem exists_highNibble_eq_iff (h : BitVec 4) : h.extractLsb' 0 3 = 0b111#3 ↔
    ∃ k : RequestKind, h = k.highNibble := by
  have hvalues : ∀ m : BitVec 4, m.extractLsb' 0 3 = 0b111#3 → m = 0x7#4 ∨ m = 0xF#4 := by decide
  constructor
  · intro hlow
    obtain rfl | rfl := hvalues h hlow
    · exact ⟨.query, rfl⟩
    · exact ⟨.send, rfl⟩
  · rintro ⟨k, rfl⟩
    cases k <;> rfl

/-- Bits 6:4 alone tell a start delimiter: bit 7 is the kind. -/
theorem isStartDelimiter_iff (c : Byte) : isStartDelimiter c = true ↔
    ∃ (k : RequestKind) (l : BitVec 4), c = k.highNibble ++ l := by
  have hbits : c.extractLsb' 4 3 = (c.extractLsb' 4 4).extractLsb' 0 3 := by
    ext j hj
    simp [show j < 4 by omega]
  simp only [isStartDelimiter, beq_iff_eq, hbits, highNibble_append_eq_iff, exists_and_left, exists_eq', and_true]
  exact exists_highNibble_eq_iff _

/-- Up to 16 payload bytes the length field does not carry into the type (30_encoding.md R81). -/
theorem startDelimiter_eq_append (k : RequestKind) {n : Nat} (hn : n ≤ 16) :
    startDelimiter k n = k.highNibble ++ BitVec.ofNat 4 (n - 1) := by
  have hlen : (if 0 < n then BitVec.ofNat 8 (n - 1) else 0#8) = BitVec.ofNat 8 (n - 1) := by
    split
    · rfl
    · rw [show n = 0 by omega]
  have hhigh : k.highNibble.toNat < 16 := k.highNibble.isLt
  apply BitVec.eq_of_toNat_eq
  rw [startDelimiter, hlen, BitVec.toNat_add, RequestKind.sdBase_add_typeCode_toNat, toNat_append_eq_add,
    BitVec.toNat_ofNat, BitVec.toNat_ofNat]
  omega

/-- The length field of a payload of up to 16 bytes. -/
theorem lengthNibble_toNat {n : Nat} (hn : n ≤ 16) : (BitVec.ofNat 4 (n - 1)).toNat = if 0 < n then n - 1 else 0 := by
  rw [BitVec.toNat_ofNat]
  split <;> omega

/-- Settles O11: the fields of a start delimiter are those of its two nibbles. -/
theorem startDelimiterFields : Obligations.StartDelimiterFields := by
  intro n hn
  have hsum (k : RequestKind) :
      (startDelimiter k n).toNat = k.highNibble.toNat * 16 + if 0 < n then n - 1 else 0 := by
    rw [startDelimiter_eq_append k hn, toNat_append_eq_add, lengthNibble_toNat hn]
    rfl
  have hkind (k : RequestKind) : (startDelimiter k n).getLsbD 7 = k.highNibble.getLsbD 3 := by
    rw [startDelimiter_eq_append k hn, BitVec.getLsbD_append]
    rfl
  refine ⟨hsum .query, hsum .send, hkind .query, hkind .send, fun k => ⟨?_, ?_⟩⟩
  · rw [startDelimiter_eq_append k hn, BitVec.extractLsb'_append_eq_of_le (by decide)]
    cases k <;> rfl
  · rw [startDelimiter_eq_append k hn, BitVec.extractLsb'_append_eq_right, lengthNibble_toNat hn]

/-- Settles O12: reader, table row and R81's sum give the same two nibbles. -/
theorem startDelimiterReadsBack : Obligations.StartDelimiterReadsBack := by
  refine ⟨fun n hn k => ?_, fun c k l h => ?_⟩
  · rw [show max n 1 - 1 = n - 1 by omega, classifyDelimiter_eq_some_iff, startDelimiter_eq_append k hn]
    refine ⟨rfl, ?_⟩
    cases k with
    | query => exact encode_delimiterRow .query _
    | send => exact encode_delimiterRow .send _
  · have hl : l.toNat < 16 := l.isLt
    rw [startDelimiter_eq_append k (by omega), Nat.add_sub_cancel, BitVec.ofNat_toNat, BitVec.setWidth_eq]
    exact (classifyDelimiter_eq_some_iff c k l).mp h

/-! ## The decoder -/

/-- The encoder gives each row of the opcode map its code, and no row's code looks like a start delimiter
(30_encoding.md R87, R88). -/
theorem opcodeMap_rows :
    ∀ p ∈ opcodeMap, encode p.2 = [p.1] ∧ p.2.wellFormed = true ∧ isStartDelimiter p.1 = false := by
  decide

theorem mem_assignedCodes_iff (c : Byte) : c ∈ assignedCodes ↔ ∃ i, (c, i) ∈ opcodeMap := by
  rw [show assignedCodes = opcodeMap.map Prod.fst from rfl]
  simp

/-- A start delimiter is no assigned code (30_encoding.md R88). -/
theorem highNibble_append_notMem (k : RequestKind) (l : BitVec 4) : k.highNibble ++ l ∉ assignedCodes := by
  rw [mem_assignedCodes_iff]
  rintro ⟨i, hi⟩
  obtain ⟨-, -, hother⟩ := opcodeMap_rows _ hi
  exact Bool.false_ne_true (hother.symm.trans ((isStartDelimiter_iff _).mpr ⟨k, l, rfl⟩))

theorem unassigned_wellFormed_iff (c : Byte) :
    (Instr.unassigned c).wellFormed = true ↔
      c ∉ assignedCodes ∧ ∀ (k : RequestKind) (l : BitVec 4), c ≠ k.highNibble ++ l := by
  have hother : isStartDelimiter c = false ↔ ∀ (k : RequestKind) (l : BitVec 4), c ≠ k.highNibble ++ l := by
    rw [← Bool.not_eq_true, isStartDelimiter_iff]
    simp
  simp [Instr.wellFormed, hother]

/-- Outside the opcode map the decoder goes by the high nibble. -/
theorem decodeByte_of_notMem {c : Byte} (hc : c ∉ assignedCodes) :
    decodeByte c = if c.extractLsb' 4 4 = 0x7#4 then .tgQuery (c.extractLsb' 0 4)
      else if c.extractLsb' 4 4 = 0xF#4 then .tgSend (c.extractLsb' 0 4) else .unassigned c := by
  have hmap : opcodeMap.lookup c = none := by
    rw [List.lookup_eq_none_iff]
    rintro ⟨d, i⟩ hi
    exact bne_iff_ne.mpr fun h => hc ((mem_assignedCodes_iff c).mpr ⟨i, h ▸ hi⟩)
  rw [decodeByte, hmap]

theorem decodeByte_highNibble_append (k : RequestKind) (l : BitVec 4) :
    decodeByte (k.highNibble ++ l) = k.delimiterRow l := by
  rw [decodeByte_of_notMem (highNibble_append_notMem k l), BitVec.extractLsb'_append_eq_left,
    BitVec.extractLsb'_append_eq_right]
  cases k <;> rfl

theorem decodeByte_of_unassigned_wellFormed {c : Byte} (h : (Instr.unassigned c).wellFormed = true) :
    decodeByte c = .unassigned c := by
  obtain ⟨hc, hother⟩ := (unassigned_wellFormed_iff c).mp h
  have hhigh (k : RequestKind) : c.extractLsb' 4 4 ≠ k.highNibble := fun hk =>
    hother k _ ((highNibble_append_eq_iff c k _).mpr ⟨hk, rfl⟩)
  rw [decodeByte_of_notMem hc]
  exact (if_neg (hhigh .query)).trans (if_neg (hhigh .send))

/-- An unassigned code and a start delimiter by the decoder's equations; the 15 rows of the opcode map compute. -/
theorem decode_encode (i : Instr) (hi : i.wellFormed = true) : decode (encode i) = .ok i := by
  cases i with
  | unassigned c => exact congrArg Except.ok (decodeByte_of_unassigned_wellFormed hi)
  | tgQuery l => exact congrArg Except.ok (decodeByte_highNibble_append .query l)
  | tgSend l => exact congrArg Except.ok (decodeByte_highNibble_append .send l)
  | _ => rfl

/-- What a command word can be. -/
theorem commandWord_cases (c : Byte) :
    (∃ i, (c, i) ∈ opcodeMap) ∨ (∃ (k : RequestKind) (l : BitVec 4), c = k.highNibble ++ l) ∨
      (Instr.unassigned c).wellFormed = true := by
  rw [← mem_assignedCodes_iff, unassigned_wellFormed_iff]
  by_cases hc : c ∈ assignedCodes
  · exact .inl hc
  by_cases hother : ∃ (k : RequestKind) (l : BitVec 4), c = k.highNibble ++ l
  · exact .inr (.inl hother)
  · exact .inr (.inr ⟨hc, fun k l h => hother ⟨k, l, h⟩⟩)

/-- Every byte is the word of a well-formed instruction (30_encoding.md R88, R90). -/
theorem exists_encode_eq (c : Byte) : ∃ i : Instr, i.wellFormed = true ∧ encode i = [c] := by
  obtain ⟨i, hi⟩ | ⟨k, l, rfl⟩ | hc := commandWord_cases c
  · obtain ⟨hencode, hwf, -⟩ := opcodeMap_rows _ hi
    exact ⟨i, hwf, hencode⟩
  · exact ⟨_, k.delimiterRow_wellFormed l, encode_delimiterRow k l⟩
  · exact ⟨.unassigned c, hc, rfl⟩

theorem decodeByte_of_decode {c : Byte} {i : Instr} (h : decode [c] = .ok i) : decodeByte c = i :=
  Except.ok.inj h

/-- Settles O1: the encoder has a left inverse on well-formed instructions and reaches every byte from one. -/
theorem decodeEncodeAgree : Obligations.DecodeEncodeAgree := by
  refine ⟨decode_encode, fun c => ⟨rfl, ?_⟩⟩
  obtain ⟨i, hwf, hencode⟩ := exists_encode_eq c
  have hdecode : decodeByte c = i := decodeByte_of_decode (hencode ▸ decode_encode i hwf)
  rw [hdecode]
  exact ⟨hwf, hencode⟩

/-- Settles O2: the rows one by one, the two refusals, and a code outside the map by what it can be. -/
theorem opcodeMapDecodes : Obligations.OpcodeMapDecodes := by
  refine ⟨rfl, rfl, rfl, rfl, rfl, rfl, rfl, rfl, rfl, rfl, rfl, rfl, rfl, rfl, rfl, rfl, fun b c r => rfl,
    fun c hc => ?_⟩
  obtain hmap | ⟨k, l, rfl⟩ | hwf := commandWord_cases c
  · exact absurd ((mem_assignedCodes_iff c).mpr hmap) hc
  · rw [decodeByte_highNibble_append]
    cases k with
    | query => exact .inr (.inl ⟨l, rfl⟩)
    | send => exact .inr (.inr ⟨l, rfl⟩)
  · exact .inl (decodeByte_of_unassigned_wellFormed hwf)

end Sys2Proof.Machine
end

section
/-! PROOFS. Command words as the host runs them (30_encoding.md R85, R88): a CMD write is the instruction that its low 8
bits decode to, and a start delimiter raises ILLEGAL_CMD. -/

namespace Sys2Proof.Machine

theorem exec_delimiterRow (k : RequestKind) (l : BitVec 4) (s : State) :
    exec (k.delimiterRow l) s = .next (s.raise .illegalCmd) := by
  cases k <;> rfl

/-- Settles O6: either row ends in `raise`, which writes STATUS alone. -/
theorem startDelimiterRowsRaiseIllegalCmd : Obligations.StartDelimiterRowsRaiseIllegalCmd := by
  intro s i hi
  have hraise : exec i s = .next (s.raise .illegalCmd) := by
    obtain ⟨l, rfl⟩ | ⟨l, rfl⟩ := hi
    · exact exec_delimiterRow .query l s
    · exact exec_delimiterRow .send l s
  exact ⟨_, hraise, rfl, rfl, State.raise_memRead s _⟩

theorem perform_regWrite_cmd (s : State) (v : Int) :
    perform (.regWrite 0x00#8 v) s = exec (decodeByte (truncTo 8 v)) { s with cmd := truncTo 8 v } :=
  rfl

/-- Settles O36: the step is the oldest transaction (O37), and that one is a CMD write. -/
theorem stepRunsDecodedInstruction : Obligations.StepRunsDecodedInstruction := by
  intro s a v rest i hnext hdecode _
  rw [stepPerformsOldestTransaction s a _ rest hnext, perform_regWrite_cmd, truncTo, decodeByte_of_decode hdecode]

end Sys2Proof.Machine
end

section
/-! PROOFS. The sum of bytes (40_checksum.md R110, R111). `sum16` is the unbounded byte sum read as 16 bits; replacing
one byte moves it by the difference of the two bytes, and flipping bit k of a number moves that number by 2^k. -/

namespace Sys2Proof.Machine

/-! ## The unbounded byte sum -/

@[simp] theorem byteSum_nil : byteSum [] = 0 := rfl

@[simp] theorem byteSum_cons (b : Byte) (bs : List Byte) : byteSum (b :: bs) = b.toNat + byteSum bs := rfl

theorem byteSum_perm {as bs : List Byte} (h : as.Perm bs) : byteSum as = byteSum bs :=
  (h.map BitVec.toNat).sum_nat

theorem byteSum_le (bs : List Byte) : byteSum bs ≤ 255 * bs.length := by
  induction bs with
  | nil => rfl
  | cons b bs ih =>
    have hb := b.isLt
    simp only [byteSum_cons, List.length_cons]
    omega

/-! ## The 16-bit sum -/

theorem sum16_eq_ofNat_byteSum (bs : List Byte) : sum16 bs = BitVec.ofNat 16 (byteSum bs) := by
  induction bs with
  | nil => rfl
  | cons b bs ih => rw [sum16, ih, byteSum_cons, BitVec.ofNat_add, BitVec.ofNat_toNat]

theorem sum16_toNat (bs : List Byte) : (sum16 bs).toNat = byteSum bs % 65536 := by
  rw [sum16_eq_ofNat_byteSum, BitVec.toNat_ofNat]

theorem sum16_eq_of_byteSum_eq {as bs : List Byte} (h : byteSum as = byteSum bs) : sum16 as = sum16 bs := by
  rw [sum16_eq_ofNat_byteSum, sum16_eq_ofNat_byteSum, h]

theorem sum16_append (as bs : List Byte) : sum16 (as ++ bs) = sum16 as + sum16 bs := by
  induction as with
  | nil => exact (BitVec.zero_add _).symm
  | cons a as ih => rw [List.cons_append, sum16, sum16, ih, BitVec.add_assoc]

theorem sum16_append_toNat (as bs : List Byte) :
    (sum16 (as ++ bs)).toNat = ((sum16 as).toNat + (sum16 bs).toNat) % 65536 := by
  rw [sum16_append, BitVec.toNat_add]

/-- 257 bytes of 255 sum to 65535. -/
theorem sum16_toNat_of_length_lt (bs : List Byte) (h : bs.length < 258) : (sum16 bs).toNat = byteSum bs := by
  have hle := byteSum_le bs
  rw [sum16_toNat, Nat.mod_eq_of_lt (by omega)]

theorem sum16_set (b : Byte) (bs : List Byte) :
    ∀ (i : Nat) (h : i < bs.length), sum16 (bs.set i b) = sum16 bs + (b.setWidth 16 - bs[i].setWidth 16) := by
  induction bs with
  | nil => intro i h; exact absurd h (Nat.not_lt_zero i)
  | cons c bs ih =>
    intro i h
    cases i with
    | zero => simp only [List.set_cons_zero, List.getElem_cons_zero, sum16]; abel
    | succ i =>
      simp only [List.set_cons_succ, List.getElem_cons_succ, sum16]
      rw [ih i (Nat.lt_of_succ_lt_succ h), BitVec.add_assoc]

/-! ## One flipped bit -/

/-- Setting a clear bit carries nothing. -/
theorem xor_twoPow_eq_add {w : Nat} {x : BitVec w} {k : Nat} (hx : x.getLsbD k = false) :
    x ^^^ BitVec.twoPow w k = x + BitVec.twoPow w k := by
  have hdisjoint : x &&& BitVec.twoPow w k = 0#w := by rw [BitVec.and_twoPow, hx]; rfl
  rw [BitVec.add_eq_or_of_and_eq_zero _ _ hdisjoint]
  ext i hi
  have hbit := congrArg (·.getLsbD i) hdisjoint
  grind

/-- A clear bit is added; a set bit is what the flip back adds, so the flip subtracts it. -/
theorem xor_twoPow_eq_add_or_sub {w : Nat} (x : BitVec w) (k : Nat) :
    x ^^^ BitVec.twoPow w k = x + BitVec.twoPow w k ∨ x ^^^ BitVec.twoPow w k = x - BitVec.twoPow w k := by
  by_cases hclear : x.getLsbD k = false
  · exact .inl (xor_twoPow_eq_add hclear)
  · have hcleared : (x ^^^ BitVec.twoPow w k).getLsbD k = false := by grind
    have hback := xor_twoPow_eq_add hcleared
    rw [BitVec.xor_assoc, BitVec.xor_self, BitVec.xor_zero] at hback
    exact .inr (BitVec.sub_eq_iff_eq_add.mpr hback).symm

theorem twoPow_ne_zero {w k : Nat} (hk : k < w) : BitVec.twoPow w k ≠ 0#w := by
  intro h
  have hbit := congrArg (·.getLsbD k) h
  simp [hk] at hbit

theorem setWidth_xor_twoPow (b : Byte) {k : Nat} (hk : k < 8) :
    (b ^^^ BitVec.twoPow 8 k).setWidth 16 = b.setWidth 16 ^^^ BitVec.twoPow 16 k := by
  ext i hi
  grind

theorem sum16_set_flip (bs : List Byte) (i k : Nat) (h : i < bs.length) (hk : k < 8) :
    sum16 (bs.set i (bs[i] ^^^ BitVec.twoPow 8 k)) = sum16 bs + BitVec.twoPow 16 k ∨
      sum16 (bs.set i (bs[i] ^^^ BitVec.twoPow 8 k)) = sum16 bs - BitVec.twoPow 16 k := by
  rw [sum16_set _ bs i h, setWidth_xor_twoPow _ hk]
  obtain hadd | hsub := xor_twoPow_eq_add_or_sub (bs[i].setWidth 16) k
  · exact .inl (by rw [hadd]; abel)
  · exact .inr (by rw [hsub]; abel)

theorem sum16_set_flip_ne (bs : List Byte) (i k : Nat) (h : i < bs.length) (hk : k < 8) :
    sum16 (bs.set i (bs[i] ^^^ BitVec.twoPow 8 k)) ≠ sum16 bs := by
  have hne : BitVec.twoPow 16 k ≠ 0#16 := twoPow_ne_zero (by omega)
  obtain hadd | hsub := sum16_set_flip bs i k h hk
  · rwa [hadd, Ne, BitVec.add_right_eq_self]
  · rwa [hsub, Ne, BitVec.sub_eq_iff_eq_add, eq_comm, BitVec.add_right_eq_self]

/-- Settles O9: the byte sum read as 16 bits, which no reordering changes. -/
theorem sum16IsByteSumModulo : Obligations.Sum16IsByteSumModulo :=
  ⟨rfl, sum16_toNat, fun _ _ h => sum16_eq_of_byteSum_eq (byteSum_perm h)⟩

/-- Settles O10: the sum of an append, the bound of 255 per byte, and the flip of one bit. -/
theorem sum16Laws : Obligations.Sum16Laws := by
  refine ⟨sum16_append_toNat, fun as b => ?_, byteSum_le, sum16_toNat_of_length_lt, fun bs h => ?_,
    fun bs i k h hk => ⟨sum16_set_flip bs i k h hk, sum16_set_flip_ne bs i k h hk⟩, fun _ _ => sum16_eq_of_byteSum_eq⟩
  · have hone : (sum16 [b]).toNat = b.toNat := by simp [sum16_toNat_of_length_lt]
    rw [sum16_append_toNat, hone]
  · have hle := byteSum_le bs
    rw [sum16_toNat_of_length_lt bs (by omega)]
    omega

end Sys2Proof.Machine
end

section
/-! PROOFS. The checksum commands CSCLR and CSADD (40_checksum.md R112, R113), and what DEC answers to a frame with one
flipped bit (R111, 41_frame_codec.md R125). -/

namespace Sys2Proof.Machine

/-! ## CSCLR and CSADD -/

@[simp] theorem exec_csclr (s : State) : exec .csclr s = .next (s.setCsacc 0#16).done := rfl

@[simp] theorem exec_csadd (s : State) : exec .csadd s = .next (s.setCsacc (s.csacc + s.csIn.setWidth 16)).done := rfl

/-- Both commands write CSACC and end in `done`, which leaves everything else as it was. -/
theorem State.setCsacc_done_frame (s : State) (v : Half) :
    StatusDone s (s.setCsacc v).done ∧
      (s.setCsacc v).done =
        { s with csacc := (s.setCsacc v).done.csacc, status := (s.setCsacc v).done.status } ∧
      BuffersSame s (s.setCsacc v).done :=
  ⟨rfl, rfl, fun sp a => by simp⟩

/-- Settles O7: the two writes of CSCLR, which a second CSCLR repeats. -/
theorem csclrClearsAccumulator : Obligations.CsclrClearsAccumulator := by
  refine ⟨rfl, fun s => ?_⟩
  obtain ⟨hstatus, hframe, hbuffers⟩ := s.setCsacc_done_frame 0#16
  exact ⟨_, exec_csclr s, rfl, hstatus, hframe, hbuffers, rfl⟩

/-- Bytes added one by one add their sum to whatever CSACC holds (40_checksum.md R113). -/
theorem feedChecksum_csacc (bs : List Byte) :
    ∀ s : State, ∃ u, feedChecksum bs s = some u ∧ u.csacc = s.csacc + sum16 bs := by
  induction bs with
  | nil => exact fun s => ⟨s, rfl, (BitVec.add_zero _).symm⟩
  | cons b bs ih =>
    intro s
    obtain ⟨u, hfeed, hsum⟩ := ih ({ s with csIn := b }.setCsacc (s.csacc + b.setWidth 16)).done
    refine ⟨u, hfeed, ?_⟩
    rw [hsum, sum16, ← BitVec.add_assoc]
    rfl

/-- Settles O8: CSADD's writes, the host's seed, and the fed bytes from a cleared CSACC. -/
theorem csaddAddsModulo : Obligations.CsaddAddsModulo := by
  refine ⟨rfl, fun s => ?_, fun s v => perform_regWrite_index s .csacc v (by decide), fun bs s t h => ?_⟩
  · obtain ⟨hstatus, hframe, hbuffers⟩ := s.setCsacc_done_frame (s.csacc + s.csIn.setWidth 16)
    exact ⟨_, exec_csadd s, by simp, hstatus, hframe, hbuffers⟩
  · obtain ⟨u, hfeed, hsum⟩ := feedChecksum_csacc bs t
    have hclear : t.csacc = 0#16 := by
      rw [exec_csclr] at h
      injection h with h
      rw [← h]
      rfl
    exact ⟨u, hfeed, by rw [hsum, hclear, BitVec.zero_add]⟩

/-! ## DEC on a flipped bit -/

/-- DEC raises CHECKSUM_MISMATCH on a frame of legal length whose sums differ (41_frame_codec.md R125). -/
theorem execDec_of_sum_ne (s : State) (hmin : 5 ≤ s.frameLen) (hcap : s.frameLen ≤ s.params.rxCap)
    (hsum : sum16 (s.rxBytes (s.frameLen - 2)) ≠
      be16 (s.memRead .rx (s.frameLen - 2)) (s.memRead .rx (s.frameLen - 1))) :
    ∃ c r, exec .dec s = .next ((s.clearDecResults.setSums c r).raise .checksumMismatch) := by
  obtain ⟨t, ht⟩ := execDec_next s
  obtain ⟨hover, -⟩ | ⟨-, hshort, -⟩ | ⟨-, -, c, r, hc, hr, ⟨-, rfl⟩ | ⟨hmatch, -⟩⟩ := execDec_cases s t ht
  · omega
  · omega
  · exact ⟨c, r, ht⟩
  · exact absurd (hc.symm.trans (hmatch.trans hr)) hsum

/-- The inbound bytes of two states that differ at index `j` alone. -/
theorem State.rxBytes_eq_set (s u : State) (n j : Nat)
    (hsame : ∀ a, a < n → a ≠ j → u.memRead .rx a = s.memRead .rx a) :
    u.rxBytes n = (s.rxBytes n).set j (u.memRead .rx j) := by
  apply List.ext_getElem
  · simp [State.rxBytes]
  · intro a ha _
    have han : a < n := by simpa [State.rxBytes] using ha
    simp only [State.rxBytes, List.getElem_set, State.memReadList_getElem, Nat.zero_add]
    split
    · next hj => rw [hj]
    · next hj => exact hsame a han (Ne.symm hj)

/-- Settles O17: the flip changes the computed sum (R111) and leaves the received one. -/
theorem decDetectsSingleBitFlip : Obligations.DecDetectsSingleBitFlip := by
  intro s u j k hmin hcap hlen hvalid hj hk hflip hsame
  have hframe : u.frameLen = s.rxLen.toNat := congrArg BitVec.toNat hlen
  have hbytes := s.rxBytes_eq_set u (s.rxLen.toNat - 2) j fun a ha => hsame a (by omega)
  have hjlen : j < (s.rxBytes (s.rxLen.toNat - 2)).length := by simpa [State.rxBytes] using hj
  have hread : s.memRead .rx j = (s.rxBytes (s.rxLen.toNat - 2))[j] := by
    simp [State.rxBytes, State.memReadList_getElem]
  have hsum : sum16 (u.rxBytes (s.rxLen.toNat - 2)) ≠ sum16 (s.rxBytes (s.rxLen.toNat - 2)) := by
    rw [hbytes, hflip, hread]
    exact sum16_set_flip_ne _ j k hjlen hk
  rw [hvalid, ← hsame (s.rxLen.toNat - 2) (by omega) (by omega), ← hsame (s.rxLen.toNat - 1) (by omega) (by omega),
    ← hframe] at hsum
  obtain ⟨c, r, hdec⟩ := execDec_of_sum_ne u (by omega) (by omega) hsum
  exact ⟨_, hdec, rfl, rfl⟩

end Sys2Proof.Machine
end

section
/-! PROOFS. The encoder as one write (41_frame_codec.md R120 to R122): ENC writes the whole telegram, a head and the
head's sum, into TXBUF from index 0 on. That TX_LEN bounds a whole telegram follows, and no other step touches it. -/

namespace Sys2Proof.Machine

/-! ## Bytes followed by their sum -/

theorem be16_hiByte_loByte (v : Half) : be16 (hiByte v) (loByte v) = v :=
  BitVec.extractLsb'_append_extractLsb' (w := 8) (len := 8)

/-- `B ++ [sum16(B)[15:8], sum16(B)[7:0]]` (41_frame_codec.md R131). -/
def withSum (bs : List Byte) : List Byte :=
  bs ++ [hiByte (sum16 bs), loByte (sum16 bs)]

@[simp] theorem withSum_length (bs : List Byte) : (withSum bs).length = bs.length + 2 := by
  simp [withSum]

theorem State.memReadList_append (s : State) (sp : BufSpace) (m n : Nat) :
    ∀ i, s.memReadList sp i (m + n) = s.memReadList sp i m ++ s.memReadList sp (i + m) n := by
  induction m with
  | zero => intro i; simp [State.memReadList]
  | succ m ih =>
    intro i
    rw [Nat.succ_add, State.memReadList, State.memReadList, ih, List.cons_append, Nat.add_assoc, Nat.add_comm 1 m]

/-- A space that starts with bytes and their sum, read part by part. -/
theorem State.reads_of_memReadList_eq_withSum (s : State) (sp : BufSpace) {bs : List Byte}
    (h : s.memReadList sp 0 (bs.length + 2) = withSum bs) :
    s.memReadList sp 0 bs.length = bs ∧ s.memRead sp bs.length = hiByte (sum16 bs) ∧
      s.memRead sp (bs.length + 1) = loByte (sum16 bs) := by
  rw [State.memReadList_append, withSum] at h
  obtain ⟨hbytes, hsum⟩ := List.append_inj h (by simp)
  simpa [State.memReadList, hbytes] using hsum

theorem State.memWriteList_append (sp : BufSpace) (as bs : List Byte) : ∀ (s : State) (i : Nat),
    s.memWriteList sp i (as ++ bs) = (s.memWriteList sp i as).memWriteList sp (i + as.length) bs := by
  induction as with
  | nil => exact fun s i => rfl
  | cons a as ih =>
    intro s i
    rw [List.cons_append, State.memWriteList, State.memWriteList, ih, List.length_cons, Nat.add_assoc, Nat.add_comm 1]

@[simp] theorem State.setTxResult_memReadList (s : State) (len : BitVec 5) (cs : Half) (sp : BufSpace) (i n : Nat) :
    (s.setTxResult len cs).memReadList sp i n = s.memReadList sp i n :=
  State.memReadList_congr _ s sp sp n i i fun a _ => s.setTxResult_memRead len cs sp (i + a)

@[simp] theorem State.done_memReadList (s : State) (sp : BufSpace) (i n : Nat) :
    s.done.memReadList sp i n = s.memReadList sp i n :=
  State.memReadList_congr _ s sp sp n i i fun a _ => s.done_memRead sp (i + a)

/-! ## The telegram that ENC writes -/

/-- Start delimiter, node, object and payload: `H` of 41_frame_codec.md R120. -/
def State.telegramHead (s : State) (k : RequestKind) : List Byte :=
  [startDelimiter k s.payLen.toNat, s.txNode, s.txObj] ++ s.payload

@[simp] theorem State.payload_length (s : State) : s.payload.length = s.payLen.toNat :=
  s.memReadList_length .pay _ 0

@[simp] theorem State.telegramHead_length (s : State) (k : RequestKind) :
    (s.telegramHead k).length = s.payLen.toNat + 3 := by
  simp [State.telegramHead]

theorem State.telegramHead_eq_frameHead (s : State) (k : RequestKind) :
    s.telegramHead k = frameHead k.typeCode.toNat s.txNode s.txObj s.payload := by
  have hdelimiter (n : Nat) : startDelimiter k n =
      BitVec.ofNat 8 (0x30 + k.typeCode.toNat + if 0 < n then n - 1 else 0) := by
    simp only [startDelimiter, sdBase, BitVec.ofNat_add, BitVec.ofNat_toNat, BitVec.setWidth_eq]
    split <;> rfl
  rw [State.telegramHead, frameHead, hdelimiter, State.payload_length]

theorem withSum_frameHead (type : Nat) (node obj : Byte) (payload : List Byte) :
    withSum (frameHead type node obj payload) = frameOf type node obj payload := by
  have hhi (v : Half) : hiByte v = BitVec.ofNat 8 (v.toNat / 256) :=
    BitVec.eq_of_toNat_eq (by simp [hiByte, Nat.shiftRight_eq_div_pow])
  have hlo (v : Half) : loByte v = BitVec.ofNat 8 (v.toNat % 256) :=
    BitVec.eq_of_toNat_eq (by simp [loByte])
  rw [withSum, hhi, hlo, sum16_toNat]
  rfl

/-- The checksum is read back over the head just written, so ENC writes the head followed by its sum. -/
theorem State.buildTelegram_eq_memWriteList (s : State) (k : RequestKind) :
    s.buildTelegram k = (s.memWriteList .tx 0 (withSum (s.telegramHead k))).setTxResult
      (BitVec.ofNat 5 (s.payLen.toNat + 5)) (sum16 (s.telegramHead k)) := by
  have hlen : headerLen + s.payLen.toNat = (s.telegramHead k).length := by simp [Nat.add_comm]
  have hread : State.txBytes (s.memWriteList .tx 0 (s.telegramHead k)) (s.telegramHead k).length = s.telegramHead k :=
    s.memReadList_memWriteList .tx 0 _
  rw [withSum, State.memWriteList_append, State.buildTelegram, ← State.telegramHead, hlen, hread, Nat.zero_add,
    minFrame_eq]

section
variable (s : State) (k : RequestKind)

theorem State.buildTelegram_txLen (hlen : s.payLen.toNat ≤ 16) :
    (s.buildTelegram k).txLen.toNat = s.payLen.toNat + 5 := by
  rw [State.buildTelegram_eq, BitVec.toNat_ofNat, Nat.mod_eq_of_lt (by omega)]

theorem State.buildTelegram_txCs : (s.buildTelegram k).txCs = sum16 (s.telegramHead k) := by
  rw [State.buildTelegram_eq_memWriteList, State.setTxResult_txCs]

theorem State.buildTelegram_memReadList :
    (s.buildTelegram k).memReadList .tx 0 (s.payLen.toNat + 5) = withSum (s.telegramHead k) := by
  have hlen : s.payLen.toNat + 5 = (withSum (s.telegramHead k)).length := by simp
  rw [State.buildTelegram_eq_memWriteList, State.setTxResult_memReadList, hlen, State.memReadList_memWriteList]

/-- ENC leaves every byte beyond the telegram, and the other two buffers, as they were. -/
theorem State.buildTelegram_buffersSameBut : BuffersSameBut .tx 0 (s.payLen.toNat + 5) s (s.buildTelegram k) := by
  intro sp a h
  rw [State.buildTelegram_eq_memWriteList, State.setTxResult_memRead]
  exact s.memRead_memWriteList_ne .tx sp a _ 0 (by simpa using h)

end

theorem encodeTelegram_of_le (k : RequestKind) (s : State) (hlen : s.payLen.toNat ≤ 16) :
    encodeTelegram k s = .next (s.buildTelegram k).done :=
  if_neg (Nat.not_lt.mpr hlen)

theorem encodeTelegram_of_gt (k : RequestKind) (s : State) (hlen : 16 < s.payLen.toNat) :
    encodeTelegram k s = .next ((s.setTxResult 0#5 0#16).raise .encLength) :=
  if_pos hlen

/-- Both ends of ENC for either kind, with the frame of 41_frame_codec.md R120. -/
theorem encodeTelegram_builds_or_raises (k : RequestKind) (s : State) :
    (s.payLen.toNat ≤ 16 → ∃ t, encodeTelegram k s = .next t ∧
      t.txLen.toNat = s.payLen.toNat + 5 ∧
      t.txCs.toNat = byteSum (frameHead k.typeCode.toNat s.txNode s.txObj s.payload) % 65536 ∧
      t.txBytes (s.payLen.toNat + 5) = frameOf k.typeCode.toNat s.txNode s.txObj s.payload ∧
      StatusDone s t ∧
      t = { s with tx := t.tx, txLen := t.txLen, txCs := t.txCs, status := t.status } ∧
      BuffersSameBut .tx 0 (s.payLen.toNat + 5) s t) ∧
    (16 < s.payLen.toNat → ∃ t, encodeTelegram k s = .next t ∧ t.txLen = 0#5 ∧ t.txCs = 0#16 ∧
      StatusRaised 2#4 s t ∧ t = { s with txLen := t.txLen, txCs := t.txCs, status := t.status } ∧ BuffersSame s t) := by
  refine ⟨fun hlen => ⟨_, encodeTelegram_of_le k s hlen, s.buildTelegram_txLen k hlen, ?_, ?_, ?_, ?_,
    fun sp a h => ?_⟩, fun hlen => ⟨_, encodeTelegram_of_gt k s hlen, rfl, rfl, rfl, rfl, fun sp a => by simp⟩⟩
  · rw [State.done_txCs, State.buildTelegram_txCs, sum16_toNat, State.telegramHead_eq_frameHead]
  · rw [State.txBytes, State.done_memReadList, State.buildTelegram_memReadList, State.telegramHead_eq_frameHead,
      withSum_frameHead]
  · rw [StatusDone, State.buildTelegram_eq]
    rfl
  · rw [State.buildTelegram_eq]
    rfl
  · rw [State.done_memRead, s.buildTelegram_buffersSameBut k sp a h]

/-- Settles O13: the two encoder commands are the two kinds, 0x40 and 0xC0 their type codes. -/
theorem encoderBuildsFrameOrRaisesLength : Obligations.EncoderBuildsFrameOrRaisesLength := by
  refine ⟨rfl, rfl, fun p hp s => ?_⟩
  simp only [List.mem_cons, List.not_mem_nil, or_false] at hp
  obtain rfl | rfl := hp
  · exact encodeTelegram_builds_or_raises .query s
  · exact encodeTelegram_builds_or_raises .send s

/-! ## The telegram as an invariant -/

/-- TX_LEN, TX_CS and the bytes of TXBUF are the same. -/
structure State.SameTelegram (s t : State) : Prop where
  txLen : t.txLen = s.txLen
  txCs : t.txCs = s.txCs
  txByte : ∀ a, t.memRead .tx a = s.memRead .tx a

theorem State.SameTelegram.telegramSound {s t : State} (h : s.SameTelegram t) (hs : s.TelegramSound) :
    t.TelegramSound := by
  have hbytes (n : Nat) : t.txBytes n = s.txBytes n :=
    State.memReadList_congr t s .tx .tx n 0 0 fun a _ => h.txByte (0 + a)
  simpa only [State.TelegramSound, h.txLen, h.txCs, h.txByte, hbytes] using hs

/-- The encoder's invariants (41_frame_codec.md R122). -/
theorem encodeTelegram_telegramSound (k : RequestKind) (s t : State) (h : encodeTelegram k s = .next t) :
    t.TelegramSound := by
  obtain ⟨-, rfl⟩ | ⟨hlen, rfl⟩ := encodeTelegram_cases k s t h
  · exact .inl ⟨rfl, rfl⟩
  · refine State.SameTelegram.telegramSound (s := s.buildTelegram k) ⟨rfl, rfl, State.done_memRead _ .tx⟩ (.inr ?_)
    have hwhole := s.buildTelegram_memReadList k
    rw [show s.payLen.toNat + 5 = (s.telegramHead k).length + 2 by simp] at hwhole
    obtain ⟨hhead, hhi, hlo⟩ := State.reads_of_memReadList_eq_withSum _ .tx hwhole
    rw [State.telegramHead_length] at hhead hhi hlo
    have hstart : (s.buildTelegram k).memRead .tx 0 = startDelimiter k s.payLen.toNat := (List.cons.inj hhead).1
    simp only [s.buildTelegram_txLen k hlen, s.buildTelegram_txCs k]
    exact ⟨by omega, by omega, ⟨k, hstart⟩, hhi, hlo, congrArg sum16 hhead.symm⟩

/-- A command leaves the telegram as it is or makes a sound one (10_state.md R50). -/
theorem exec_telegram (i : Instr) (s t : State) (h : exec i s = .next t) : s.SameTelegram t ∨ t.TelegramSound := by
  by_cases hi : i ∈ [Instr.encQ, .encS]
  · simp only [List.mem_cons, List.not_mem_nil, or_false] at hi
    obtain rfl | rfl := hi
    · exact .inr (encodeTelegram_telegramSound .query s t h)
    · exact .inr (encodeTelegram_telegramSound .send s t h)
  · obtain ⟨-, -, htelegram, -⟩ := commandsWriteOnlyTheirOutputs i s t h
    obtain ⟨hlen, hcs, hbyte⟩ := htelegram hi
    exact .inl ⟨hlen, hcs, hbyte⟩

theorem State.storeReg_sameTelegram (s : State) (r : Reg) (v : Int) : s.SameTelegram (s.storeReg r v) := by
  have hbyte := (s.storeReg_sameButRegisters r v).buffersSame .tx
  cases r with
  | calV | calI => refine ⟨?_, ?_, hbyte⟩ <;> (rw [State.storeReg]; split <;> rfl)
  | _ => exact ⟨rfl, rfl, hbyte⟩

theorem State.regStore_sameTelegram (s : State) (i : BitVec 8) (v : Int) : s.SameTelegram (s.regStore i v) := by
  rw [State.regStore]
  split
  · exact s.storeReg_sameTelegram _ v
  · exact ⟨rfl, rfl, fun _ => rfl⟩

/-- The host cannot write TXBUF (20_memory.md R61). -/
theorem State.bufWrite_sameTelegram (s : State) (sp : BufSpace) (i : Nat) (v : Int) :
    s.SameTelegram (s.bufWrite sp i v) := by
  simp only [State.bufWrite]
  split
  · cases sp <;> exact ⟨rfl, rfl, fun _ => rfl⟩
  · exact ⟨rfl, rfl, fun _ => rfl⟩

theorem perform_telegram (op : HostOp) (s t : State) (h : perform op s = .next t) :
    s.SameTelegram t ∨ t.TelegramSound := by
  obtain ⟨i, -, rfl⟩ | ⟨v, -, hrun⟩ | ⟨i, v, -, -, rfl⟩ | ⟨sp, i, -, rfl⟩ | ⟨sp, i, v, -, rfl⟩ | ⟨-, rfl⟩ :=
    perform_cases op s t h
  · exact .inl ⟨rfl, rfl, fun _ => rfl⟩
  · exact (exec_telegram _ { s with cmd := truncTo 8 v } t hrun).imp_left fun h => ⟨h.txLen, h.txCs, h.txByte⟩
  · exact .inl (s.regStore_sameTelegram i v)
  · exact .inl ⟨rfl, rfl, fun _ => rfl⟩
  · exact .inl (s.bufWrite_sameTelegram sp i v)
  · exact .inr (.inl ⟨rfl, rfl⟩)

/-- Settles O53: only ENC and Reset change the telegram, and each leaves a sound one. -/
theorem stepKeepsTelegramSound : Obligations.StepKeepsTelegramSound := by
  intro s t hs h
  obtain ⟨-, rfl⟩ | ⟨tr, rest, -, -, hperform⟩ := step_cases s t h
  · exact hs
  · obtain hsame | hsound := perform_telegram tr.op ({ s with pending := rest }.claim tr.agent) t hperform
    · exact State.SameTelegram.telegramSound (s := s) ⟨hsame.txLen, hsame.txCs, hsame.txByte⟩ hs
    · exact hsound

end Sys2Proof.Machine
end

section
/-! PROOFS. The decoder (41_frame_codec.md R125 to R131): the classification table as numbers, what DEC's last part
leaves in STATUS and FAULT, and that bytes followed by their sum pass DEC's two checks. -/

namespace Sys2Proof.Machine

/-! ## The classification table -/

theorem classify_status (e : Byte) (he : e ≠ 0x00#8) : classify 0xFF#8 e = some (deviceFaultOf e) := by
  simp [classify, he]

/-- Only a status byte and a nonzero code name a fault. -/
theorem classify_eq_none_iff (b e : Byte) : classify b e = none ↔ (b = 0xFF#8 → e = 0x00#8) := by
  by_cases hb : b = 0xFF#8 <;> by_cases he : e = 0x00#8 <;> simp [classify, hb, he]

theorem classify_eq_some_iff (b e : Byte) (f : DeviceFault) :
    classify b e = some f ↔ b = 0xFF#8 ∧ e ≠ 0x00#8 ∧ deviceFaultOf e = f := by
  by_cases hb : b = 0xFF#8 <;> by_cases he : e = 0x00#8 <;> simp [classify, hb, he]

theorem deviceFaultOf_unknown {e : Byte}
    (he : e ∉ [0x00#8, 0x03#8, 0x04#8, 0x05#8, 0x07#8, 0x08#8, 0x09#8, 0x0F#8, 0x30#8, 0x31#8]) :
    deviceFaultOf e = .unknownFault := by
  simp only [List.mem_cons, List.not_mem_nil, or_false, not_or] at he
  simp [deviceFaultOf, he]

/-- Row by row, a code's fault has the number that R126's table gives it. -/
theorem deviceFaultOf_kind (e : Byte) (he : e ≠ 0x00#8) :
    (deviceFaultOf e).kind.toNat = kindNumber 0xFF e.toNat := by
  have hnat : e.toNat ≠ 0 := fun h => he (BitVec.eq_of_toNat_eq h)
  simp only [deviceFaultOf, kindNumber, BitVec.toNat_eq, apply_ite DeviceFault.kind, apply_ite BitVec.toNat]
  simp [hnat, DeviceFault.kind]

theorem kindNumber_of_classify_eq_some {b e : Byte} {f : DeviceFault} (h : classify b e = some f) :
    kindNumber b.toNat e.toNat = f.kind.toNat := by
  obtain ⟨rfl, he, rfl⟩ := (classify_eq_some_iff b e f).mp h
  exact (deviceFaultOf_kind e he).symm

theorem kindNumber_of_classify_eq_none {b e : Byte} (h : classify b e = none) : kindNumber b.toNat e.toNat = 0 := by
  by_cases hb : b = 0xFF#8
  · rw [hb, (classify_eq_none_iff b e).mp h hb]
    rfl
  · exact if_pos fun hnat => hb (BitVec.eq_of_toNat_eq hnat)

/-- Settles O14: the rows, the codes outside the table, the kind numbers, and the count of unknown codes. -/
theorem classifyFollowsFaultTable : Obligations.ClassifyFollowsFaultTable := by
  refine ⟨fun b e hb => if_pos hb, rfl, rfl, rfl, rfl, rfl, rfl, rfl, rfl, rfl, rfl, fun e he => ?_, fun b e => ?_, ?_⟩
  · rw [classify_status e fun h => he (by simp [h]), deviceFaultOf_unknown he]
  · split
    next hnone => exact (kindNumber_of_classify_eq_none hnone).symm
    next f hsome => exact (kindNumber_of_classify_eq_some hsome).symm
  · decide +kernel

/-! ## DEC -/

theorem be16_toNat (hi lo : Byte) : (be16 hi lo).toNat = 256 * hi.toNat + lo.toNat := by
  rw [be16, toNat_append_eq_add]
  omega

theorem FaultReg.record_word_toNat (f : DeviceFault) (e : Byte) :
    (FaultReg.record f e).word.toNat = 256 * e.toNat + f.kind.toNat := by
  rw [FaultReg.word_toNat, Nat.add_comm]
  rfl

theorem FaultReg.clear_word : FaultReg.clear.word = 0#16 := rfl

section
variable (s : State)

/-- DEC's last part writes STATUS, FAULT and RX_PLEN alone. -/
theorem State.classifyFrame_eq : s.classifyFrame =
    { s with status := s.classifyFrame.status, fault := s.classifyFrame.fault, rxPlen := s.classifyFrame.rxPlen } := by
  obtain ⟨f, -, hframe⟩ | ⟨-, hframe⟩ := s.classifyFrame_cases <;> rw [hframe] <;> rfl

theorem State.classifyFrame_rxCscalc : s.classifyFrame.rxCscalc = s.rxCscalc := by
  rw [State.classifyFrame_eq]

theorem State.classifyFrame_rxCsrecv : s.classifyFrame.rxCsrecv = s.rxCsrecv := by
  rw [State.classifyFrame_eq]

theorem State.classifyFrame_rxPlen : s.classifyFrame.rxPlen.toNat = s.frameLen - 5 := by
  have hplen : s.classifyFrame.rxPlen = BitVec.ofNat 8 (s.frameLen - 5) := by
    obtain ⟨f, -, hframe⟩ | ⟨-, hframe⟩ := s.classifyFrame_cases <;> rw [hframe] <;> rfl
  have hlt : s.frameLen < 256 := s.rxLen.isLt
  rw [hplen, BitVec.toNat_ofNat, Nat.mod_eq_of_lt (by omega)]

theorem State.classifyFrame_rxAck :
    s.classifyFrame.status.rxAck = true ↔ s.memRead .rx 2 = 0xFF#8 ∧ s.memRead .rx 3 = 0x00#8 := by
  rw [← isAck_iff]
  obtain ⟨f, -, hframe⟩ | ⟨-, hframe⟩ := s.classifyFrame_cases <;> rw [hframe] <;> rfl

/-- The two ends of DEC's last part, by the kind number of bytes 2 and 3 (41_frame_codec.md R127). -/
theorem State.classifyFrame_kind (hclear : s.fault = FaultReg.clear) :
    if kindNumber (s.memRead .rx 2).toNat (s.memRead .rx 3).toNat = 0 then
      s.classifyFrame.status = { s.status with err := 0#4, rxValid := true, rxAck := s.classifyFrame.status.rxAck } ∧
        s.classifyFrame.fault.word = 0#16
    else
      s.classifyFrame.status =
          { s.status with err := 6#4, sticky := true, rxValid := true, rxAck := s.classifyFrame.status.rxAck } ∧
        s.classifyFrame.fault.word.toNat =
          256 * (s.memRead .rx 3).toNat + kindNumber (s.memRead .rx 2).toNat (s.memRead .rx 3).toNat := by
  obtain ⟨f, hf, hframe⟩ | ⟨hf, hframe⟩ := s.classifyFrame_cases
  · have hkind : f.kind.toNat ≠ 0 := fun h => f.kind_ne_zero (BitVec.eq_of_toNat_eq h)
    rw [kindNumber_of_classify_eq_some hf, if_neg hkind, hframe]
    exact ⟨rfl, FaultReg.record_word_toNat f _⟩
  · rw [kindNumber_of_classify_eq_none hf, if_pos rfl, hframe]
    exact ⟨rfl, (congrArg FaultReg.word hclear).trans FaultReg.clear_word⟩

end

/-- Settles O15: DEC's ends in the order of its checks, the last one by the kind number. -/
theorem decValidatesThenClassifies : Obligations.DecValidatesThenClassifies := by
  refine ⟨rfl, fun s => ?_⟩
  obtain ⟨t, ht⟩ := execDec_next s
  refine ⟨t, ht, (exec_sameButRegisters .dec s t (by decide) ht).buffersSame, ?_⟩
  have hlen : s.rxLen.toNat = s.frameLen := rfl
  rw [hlen]
  obtain ⟨hover, rfl⟩ | ⟨hcap, hshort, rfl⟩ | ⟨hcap, hmin, c, r, hc, hr, hsum⟩ := execDec_cases s t ht
  · rw [if_pos hover]
    exact ⟨rfl, rfl, FaultReg.clear_word, rfl, rfl, rfl⟩
  · rw [if_neg (by omega), if_pos hshort]
    exact ⟨rfl, rfl, FaultReg.clear_word, rfl, rfl, rfl⟩
  · have hcalc : c.toNat = byteSum (s.rxBytes (s.frameLen - 2)) % 65536 := by rw [hc, sum16_toNat]
    have hrecv : r.toNat = 256 * (s.memRead .rx (s.frameLen - 2)).toNat + (s.memRead .rx (s.frameLen - 1)).toNat := by
      rw [hr, be16_toNat]
    rw [if_neg (by omega), if_neg (by omega)]
    obtain ⟨hne, rfl⟩ | ⟨heq, rfl⟩ := hsum
    · refine ⟨rfl, hcalc, hrecv, (if_pos hne).mpr ?_⟩
      exact ⟨rfl, FaultReg.clear_word, rfl⟩
    · have hplen := (s.clearDecResults.setSums c r).classifyFrame_rxPlen
      have hack := (s.clearDecResults.setSums c r).classifyFrame_rxAck
      have hkind := (s.clearDecResults.setSums c r).classifyFrame_kind rfl
      simp only [State.setSums_memRead, State.clearDecResults_memRead] at hack hkind
      rw [State.classifyFrame_rxCscalc, State.classifyFrame_rxCsrecv, State.setSums_rxCscalc, State.setSums_rxCsrecv,
        if_neg (not_not.mpr heq)]
      exact ⟨(s.clearDecResults.setSums c r).classifyFrame_eq, hcalc, hrecv, hplen, hack, hkind⟩

/-! ## The round trip -/

/-- DEC classifies a frame of legal length whose sums agree (41_frame_codec.md R125). -/
theorem execDec_of_sum_eq (s : State) (hmin : 5 ≤ s.frameLen) (hcap : s.frameLen ≤ s.params.rxCap)
    (hsum : sum16 (s.rxBytes (s.frameLen - 2)) =
      be16 (s.memRead .rx (s.frameLen - 2)) (s.memRead .rx (s.frameLen - 1))) :
    ∃ c r, exec .dec s = .next (s.clearDecResults.setSums c r).classifyFrame := by
  obtain ⟨t, ht⟩ := execDec_next s
  obtain ⟨hover, -⟩ | ⟨-, hshort, -⟩ | ⟨-, -, c, r, hc, hr, ⟨hne, -⟩ | ⟨-, rfl⟩⟩ := execDec_cases s t ht
  · omega
  · omega
  · exact absurd (hc.trans (hsum.trans hr.symm)) hne
  · exact ⟨c, r, ht⟩

/-- A classified frame is valid, and reports a fault exactly for a status byte with a nonzero code
(41_frame_codec.md R126, R127). -/
theorem State.classifyFrame_status (s : State) :
    s.classifyFrame.status.rxValid = true ∧ (s.classifyFrame.status.err = 0#4 ∨ s.classifyFrame.status.err = 6#4) ∧
      (s.classifyFrame.status.err = 6#4 ↔ s.memRead .rx 2 = 0xFF#8 ∧ s.memRead .rx 3 ≠ 0x00#8) := by
  obtain ⟨f, hf, hframe⟩ | ⟨hf, hframe⟩ := s.classifyFrame_cases
  all_goals rw [hframe]
  · obtain ⟨hb, he, -⟩ := (classify_eq_some_iff _ _ f).mp hf
    exact ⟨rfl, .inr rfl, fun _ => ⟨hb, he⟩, fun _ => rfl⟩
  · have hnone := (classify_eq_none_iff _ _).mp hf
    exact ⟨rfl, .inl rfl, fun h => absurd h (show ¬0#4 = 6#4 by decide), fun ⟨hb, he⟩ => absurd (hnone hb) he⟩

/-- Three or more bytes followed by their sum pass DEC (41_frame_codec.md R131). -/
theorem execDec_of_withSum (bs : List Byte) (s : State) (hmin : 3 ≤ bs.length) (hcap : bs.length + 2 ≤ s.params.rxCap)
    (hlen : s.rxLen.toNat = bs.length + 2) (hbytes : s.rxBytes (bs.length + 2) = withSum bs) :
    ∃ t, exec .dec s = .next t ∧ t.status.rxValid = true ∧ t.rxBytes bs.length = bs ∧
      (t.status.err = 0#4 ∨ t.status.err = 6#4) ∧
      (t.status.err = 6#4 ↔ t.memRead .rx 2 = 0xFF#8 ∧ t.memRead .rx 3 ≠ 0x00#8) := by
  have hframe : s.frameLen = bs.length + 2 := hlen
  obtain ⟨hhead, hhi, hlo⟩ := s.reads_of_memReadList_eq_withSum .rx hbytes
  have hsum : sum16 (s.rxBytes (s.frameLen - 2)) =
      be16 (s.memRead .rx (s.frameLen - 2)) (s.memRead .rx (s.frameLen - 1)) := by
    rw [hframe, Nat.add_sub_cancel, State.rxBytes, hhead, hhi, Nat.add_sub_assoc (by decide), hlo, be16_hiByte_loByte]
  obtain ⟨c, r, hdec⟩ := execDec_of_sum_eq s (by omega) (by omega) hsum
  have hsame := (exec_sameButRegisters .dec s _ (by decide) hdec).buffersSame .rx
  obtain ⟨hvalid, hends, herr⟩ := (s.clearDecResults.setSums c r).classifyFrame_status
  refine ⟨_, hdec, hvalid, ?_, hends, ?_⟩
  · rw [State.rxBytes_congr s _ _ hsame, State.rxBytes, hhead]
  · rw [herr, hsame, hsame, State.setSums_memRead, State.setSums_memRead, State.clearDecResults_memRead,
      State.clearDecResults_memRead]

/-- An encoder's frame is three or more bytes followed by their sum, in at most 21 bytes (41_frame_codec.md R122). -/
theorem encodeTelegram_withSum (k : RequestKind) (s t : State) (h : encodeTelegram k s = .next t)
    (herr : t.status.err = 0#4) :
    ∃ bs, 3 ≤ bs.length ∧ t.txLen.toNat = bs.length + 2 ∧ bs.length + 2 ≤ 21 ∧
      t.txBytes t.txLen.toNat = withSum bs := by
  obtain ⟨-, rfl⟩ | ⟨hlen, rfl⟩ := encodeTelegram_cases k s t h
  · exact absurd herr (show ¬2#4 = 0#4 by decide)
  · have htxLen : (s.buildTelegram k).done.txLen.toNat = s.payLen.toNat + 5 := s.buildTelegram_txLen k hlen
    refine ⟨s.telegramHead k, by simp, by simpa using htxLen, by simp; omega, ?_⟩
    rw [htxLen, State.txBytes, State.done_memReadList, State.buildTelegram_memReadList]

theorem execDec_of_encodeTelegram (k : RequestKind) (s t u : State) (h : encodeTelegram k s = .next t)
    (herr : t.status.err = 0#4) (hparams : u.params.Legal) (hlen : u.rxLen.toNat = t.txLen.toNat)
    (hcopy : u.rxBytes t.txLen.toNat = t.txBytes t.txLen.toNat) :
    ∃ v, exec .dec u = .next v ∧ v.status.rxValid = true := by
  obtain ⟨bs, hmin, htxLen, hmax, hframe⟩ := encodeTelegram_withSum k s t h herr
  obtain ⟨hcap, -⟩ := hparams
  rw [hframe, htxLen] at hcopy
  obtain ⟨v, hdec, hvalid, -⟩ := execDec_of_withSum bs u hmin (by omega) (hlen.trans htxLen) hcopy
  exact ⟨v, hdec, hvalid⟩

/-- Settles O16: bytes with their sum, a frame below the minimum length, and a copied telegram. -/
theorem decAcceptsChecksummedBytes : Obligations.DecAcceptsChecksummedBytes := by
  refine ⟨execDec_of_withSum, fun bs s hshort hcap hlen => ?_, fun i hi s t u h => ?_⟩
  · have hframe : s.frameLen = bs.length + 2 := hlen
    obtain ⟨t, ht⟩ := execDec_next s
    obtain ⟨hover, -⟩ | ⟨-, -, rfl⟩ | ⟨-, hmin, -⟩ := execDec_cases s t ht
    · omega
    · exact ⟨_, ht, rfl, rfl⟩
    · omega
  · simp only [List.mem_cons, List.not_mem_nil, or_false] at hi
    obtain rfl | rfl := hi
    · exact execDec_of_encodeTelegram .query s t u h
    · exact execDec_of_encodeTelegram .send s t u h

end Sys2Proof.Machine
end

section
/-! PROOFS. Which buffer bytes a command reads (93_implementation_defined.md I4, I10). Replacing the three listings
commutes with every command but ENC and PK16, as long as RX[0..RX_LEN) reads the same; ENC's telegram is a function of
registers and of PAY[0..PAY_LEN), and PK16's two bytes are RAW16's. -/

namespace Sys2Proof.Machine

/-! ## Replacing the listings -/

/-- The same registers with other listings. -/
def State.withBuffers (p x r : Memory) (s : State) : State :=
  { s with pay := p, tx := x, rx := r }

section
variable (s : State) (p x r : Memory)

@[simp] theorem State.withBuffers_params : (s.withBuffers p x r).params = s.params := rfl
@[simp] theorem State.withBuffers_fldOff : (s.withBuffers p x r).fldOff = s.fldOff := rfl
@[simp] theorem State.withBuffers_raw16 : (s.withBuffers p x r).raw16 = s.raw16 := rfl
@[simp] theorem State.withBuffers_frameLen : (s.withBuffers p x r).frameLen = s.frameLen := rfl

@[simp] theorem State.withBuffers_done : (s.withBuffers p x r).done = s.done.withBuffers p x r := rfl

@[simp] theorem State.withBuffers_raise (e : EngineError) :
    (s.withBuffers p x r).raise e = (s.raise e).withBuffers p x r := rfl

@[simp] theorem State.withBuffers_setRaw16 (v : Half) :
    (s.withBuffers p x r).setRaw16 v = (s.setRaw16 v).withBuffers p x r := rfl

@[simp] theorem State.withBuffers_setFldW32 (v : Word) :
    (s.withBuffers p x r).setFldW32 v = (s.setFldW32 v).withBuffers p x r := rfl

@[simp] theorem State.withBuffers_clearDecResults :
    (s.withBuffers p x r).clearDecResults = s.clearDecResults.withBuffers p x r := rfl

@[simp] theorem State.withBuffers_setSums (computed received : Half) :
    (s.withBuffers p x r).setSums computed received = (s.setSums computed received).withBuffers p x r := rfl

/-- Bytes 2 and 3 are all that classification reads (41_frame_codec.md R128). -/
theorem State.withBuffers_classifyFrame (h2 : (s.withBuffers p x r).memRead .rx 2 = s.memRead .rx 2)
    (h3 : (s.withBuffers p x r).memRead .rx 3 = s.memRead .rx 3) :
    (s.withBuffers p x r).classifyFrame = s.classifyFrame.withBuffers p x r := by
  simp only [State.classifyFrame, h2, h3]
  split <;> rfl

/-! ## The commands that read and write no buffer -/

theorem scaleUpChannel_withBuffers (ch : Channel) :
    scaleUpChannel ch (s.withBuffers p x r) = mapNext (State.withBuffers p x r) (scaleUpChannel ch s) := by
  simp only [scaleUpChannel, apply_ite (mapNext _), mapNext_next, mapNext_fault]
  cases ch <;> rfl

theorem scaleDownChannel_withBuffers (ch : Channel) :
    scaleDownChannel ch (s.withBuffers p x r) = mapNext (State.withBuffers p x r) (scaleDownChannel ch s) := by
  simp only [scaleDownChannel, apply_ite (mapNext _), mapNext_next]
  cases ch <;> rfl

theorem execCallock_withBuffers :
    execCallock (s.withBuffers p x r) = mapNext (State.withBuffers p x r) (execCallock s) := by
  simp only [execCallock, apply_ite (mapNext _), mapNext_next]
  rfl

/-! ## The commands that read RXBUF -/

section
variable (hrx : ∀ a, a < s.frameLen → (s.withBuffers p x r).memRead .rx a = s.memRead .rx a)
include hrx

theorem execDec_withBuffers : execDec (s.withBuffers p x r) = mapNext (State.withBuffers p x r) (execDec s) := by
  by_cases hcap : s.params.rxCap < s.frameLen
  · simp [execDec, hcap]
  by_cases hmin : s.frameLen < 5
  · simp [execDec, hcap, hmin]
  have hbytes : (s.withBuffers p x r).rxBytes (s.frameLen - 2) = s.rxBytes (s.frameLen - 2) :=
    State.memReadList_congr _ s .rx .rx _ 0 0 fun a ha => hrx (0 + a) (by omega)
  have hhi := hrx (s.frameLen - 2) (by omega)
  have hlo := hrx (s.frameLen - 1) (by omega)
  by_cases hsum : sum16 (s.rxBytes (s.frameLen - 2)) =
      be16 (s.memRead .rx (s.frameLen - 2)) (s.memRead .rx (s.frameLen - 1))
  · have hclassify (c d : Half) := (s.clearDecResults.setSums c d).withBuffers_classifyFrame p x r
      (hrx 2 (by omega)) (hrx 3 (by omega))
    simp [execDec, hcap, hmin, hbytes, hhi, hlo, hsum, hclassify]
  · simp [execDec, hcap, hmin, hbytes, hhi, hlo, hsum]

theorem execUnpk16_withBuffers :
    execUnpk16 (s.withBuffers p x r) = mapNext (State.withBuffers p x r) (execUnpk16 s) := by
  by_cases hcap : s.params.rxCap < s.frameLen
  · simp [execUnpk16, hcap]
  by_cases hoff : s.frameLen ≤ s.fldOff.toNat + 1
  · simp [execUnpk16, hcap, hoff]
  · simp [execUnpk16, hcap, hoff, hrx s.fldOff.toNat (by omega), hrx (s.fldOff.toNat + 1) (by omega)]

theorem execF32bits_withBuffers :
    execF32bits (s.withBuffers p x r) = mapNext (State.withBuffers p x r) (execF32bits s) := by
  by_cases hcap : s.params.rxCap < s.frameLen
  · simp [execF32bits, hcap]
  by_cases hlen : s.frameLen = 9
  · rw [hlen] at hcap
    simp [execF32bits, hcap, hlen, hrx 3 (by omega), hrx 4 (by omega), hrx 5 (by omega), hrx 6 (by omega)]
  · simp [execF32bits, hcap, hlen]

theorem exec_withBuffers (i : Instr) (hi : i ∉ [Instr.encQ, .encS, .pk16]) :
    exec i (s.withBuffers p x r) = mapNext (State.withBuffers p x r) (exec i s) := by
  cases i with
  | encQ | encS | pk16 => simp at hi
  | nop | clrerr | csclr | csadd | unassigned _ | tgQuery _ | tgSend _ => rfl
  | dec => exact execDec_withBuffers s p x r hrx
  | unpk16 => exact execUnpk16_withBuffers s p x r hrx
  | f32bits => exact execF32bits_withBuffers s p x r hrx
  | scupV => exact scaleUpChannel_withBuffers s p x r .voltage
  | scupI => exact scaleUpChannel_withBuffers s p x r .current
  | scdnV => exact scaleDownChannel_withBuffers s p x r .voltage
  | scdnI => exact scaleDownChannel_withBuffers s p x r .current
  | callock => exact execCallock_withBuffers s p x r

end

/-! ## The commands that write a buffer -/

/-- ENC's telegram is a function of registers and of the payload, whatever TXBUF held (41_frame_codec.md R121). -/
theorem encodeTelegram_withBuffers (k : RequestKind) (t : State)
    (hpay : ∀ a, a < s.payLen.toNat → (s.withBuffers p x r).memRead .pay a = s.memRead .pay a)
    (h : encodeTelegram k s = .next t) :
    ∃ m, encodeTelegram k (s.withBuffers p x r) = .next (t.withBuffers p m r) ∧
      (t.withBuffers p m r).txBytes t.txLen.toNat = t.txBytes t.txLen.toNat := by
  obtain ⟨hlen, rfl⟩ | ⟨hlen, rfl⟩ := encodeTelegram_cases k s t h
  · exact ⟨x, encodeTelegram_of_gt k _ hlen, rfl⟩
  · have hpayload : (s.withBuffers p x r).payload = s.payload :=
      State.memReadList_congr _ s .pay .pay _ 0 0 fun a ha => by simpa using hpay a ha
    have hhead : (s.withBuffers p x r).telegramHead k = s.telegramHead k := by
      rw [State.telegramHead, hpayload]
      rfl
    have hbuild : ((s.withBuffers p x r).buildTelegram k).done =
        (s.buildTelegram k).done.withBuffers p ((s.withBuffers p x r).buildTelegram k).tx r := by
      rw [State.buildTelegram_eq, State.buildTelegram_txCs, hhead, s.buildTelegram_eq, s.buildTelegram_txCs]
      rfl
    have htxLen : (s.buildTelegram k).done.txLen.toNat = s.payLen.toNat + 5 := s.buildTelegram_txLen k hlen
    have htelegram := (s.withBuffers p x r).buildTelegram_memReadList k
    refine ⟨((s.withBuffers p x r).buildTelegram k).tx, ?_, ?_⟩
    · rw [← hbuild]
      exact encodeTelegram_of_le k _ hlen
    · rw [← hbuild, htxLen, State.txBytes, State.txBytes, State.done_memReadList, State.done_memReadList,
        s.buildTelegram_memReadList, ← hhead]
      exact htelegram

end

/-- PK16's payload is RAW16's two bytes, whatever PAYBUF held (42_fields.md R151). -/
theorem execPk16_payload (s t : State) (h : execPk16 s = .next t) : t.payload = [hiByte s.raw16, loByte s.raw16] := by
  injection h with h
  subst h
  exact s.memReadList_memWriteList .pay 0 [hiByte s.raw16, loByte s.raw16]

/-- PK16 reads RAW16 alone, so with other listings only the listings of its outcome differ. -/
theorem execPk16_withBuffers (s t : State) (p x r : Memory) (h : execPk16 s = .next t) :
    ∃ m, execPk16 (s.withBuffers p x r) = .next (t.withBuffers m x r) := by
  rw [execPk16_eq] at h
  injection h with h
  subst h
  exact ⟨_, execPk16_eq _⟩

/-- Settles O35: ENC by its telegram, PK16 by its two bytes, and every other command leaves the listings alone. -/
theorem bytesBeyondLengthsDoNotMatter : Obligations.BytesBeyondLengthsDoNotMatter := by
  intro i s u t hu hrx hpay h
  change u = s.withBuffers u.pay u.tx u.rx at hu
  generalize u.pay = p, u.tx = x, u.rx = r at hu
  subst hu
  by_cases hi : i ∈ [Instr.encQ, .encS, .pk16]
  · simp only [List.mem_cons, List.not_mem_nil, or_false] at hi
    obtain rfl | rfl | rfl := hi
    · obtain ⟨m, hexec, hframe⟩ := encodeTelegram_withBuffers s p x r .query t hpay h
      exact ⟨_, hexec, rfl, fun _ => hframe, nofun⟩
    · obtain ⟨m, hexec, hframe⟩ := encodeTelegram_withBuffers s p x r .send t hpay h
      exact ⟨_, hexec, rfl, fun _ => hframe, nofun⟩
    · obtain ⟨m, hexec⟩ := execPk16_withBuffers s t p x r h
      exact ⟨_, hexec, rfl, by simp, fun _ => (execPk16_payload _ _ hexec).trans (execPk16_payload s t h).symm⟩
  · have hexec := exec_withBuffers s p x r hrx i hi
    rw [h, mapNext_next] at hexec
    simp only [List.mem_cons, List.not_mem_nil, or_false, not_or] at hi
    obtain ⟨hencQ, hencS, hpk16⟩ := hi
    exact ⟨_, hexec, rfl, by simp [hencQ, hencS], fun hi => absurd hi hpk16⟩

end Sys2Proof.Machine
end

section
/-! PROOFS. Payload field marshalling (42_fields.md R150, R151, R153): the byte order of each field as a number, and the
ends of UNPK16, PK16 and F32BITS. -/

namespace Sys2Proof.Machine

/-! ## The bytes of a field as numbers -/

theorem hiByte_toNat (v : Half) : (hiByte v).toNat = v.toNat / 256 := by
  rw [hiByte, BitVec.extractLsb'_toNat, Nat.shiftRight_eq_div_pow]
  omega

theorem loByte_toNat (v : Half) : (loByte v).toNat = v.toNat % 256 :=
  BitVec.extractLsb'_toNat 0 8 v

theorem reversed32_toNat (b0 b1 b2 b3 : Byte) :
    (reversed32 b0 b1 b2 b3).toNat = 16777216 * b3.toNat + 65536 * b2.toNat + 256 * b1.toNat + b0.toNat := by
  simp only [reversed32, toNat_append_eq_add]
  omega

/-! ## The commands that read a field of RXBUF -/

/-- Settles O18: UNPK16's ends in the order of its checks. -/
theorem unpk16ReadsBigEndianField : Obligations.Unpk16ReadsBigEndianField := by
  refine ⟨rfl, fun s => ?_⟩
  obtain ⟨t, ht⟩ := execUnpk16_next s
  have hbuffers : BuffersSame s t := (exec_sameButRegisters .unpk16 s t (by decide) ht).buffersSame
  obtain ⟨hover, rfl⟩ | ⟨hcap, hrange, rfl⟩ | ⟨hcap, hinside, rfl⟩ := execUnpk16_cases s t ht
  · exact ⟨_, ht, rfl, hbuffers, (if_pos hover).mpr ⟨rfl, rfl⟩⟩
  · exact ⟨_, ht, rfl, hbuffers, (if_neg hcap.not_gt).mpr ((if_pos hrange).mpr ⟨rfl, rfl⟩)⟩
  · exact ⟨_, ht, rfl, hbuffers, (if_neg hcap.not_gt).mpr ((if_neg hinside.not_ge).mpr ⟨rfl, be16_toNat _ _⟩)⟩

/-- Settles O20: F32BITS's ends in the order of its checks. -/
theorem f32bitsReversesPayload : Obligations.F32bitsReversesPayload := by
  refine ⟨rfl, fun s => ?_⟩
  obtain ⟨t, ht⟩ := execF32bits_next s
  have hbuffers : BuffersSame s t := (exec_sameButRegisters .f32bits s t (by decide) ht).buffersSame
  obtain ⟨hover, rfl⟩ | ⟨hcap, hother, rfl⟩ | ⟨hcap, hnine, rfl⟩ := execF32bits_cases s t ht
  · exact ⟨_, ht, rfl, hbuffers, (if_pos hover).mpr ⟨rfl, rfl⟩⟩
  · exact ⟨_, ht, rfl, hbuffers, (if_neg hcap.not_gt).mpr ((if_pos hother).mpr ⟨rfl, rfl⟩)⟩
  · exact ⟨_, ht, rfl, hbuffers,
      (if_neg hcap.not_gt).mpr ((if_neg (not_not.mpr hnine)).mpr ⟨rfl, reversed32_toNat _ _ _ _⟩)⟩

/-! ## PK16 -/

/-- After its write of RAW16's two bytes, PK16 sets PAY_LEN and STATUS, which no buffer read sees (42_fields.md R151). -/
theorem execPk16_memRead (s t : State) (h : execPk16 s = .next t) (sp : BufSpace) (a : Nat) :
    t.memRead sp a = (s.memWriteList .pay 0 [hiByte s.raw16, loByte s.raw16]).memRead sp a := by
  injection h with h
  rw [← h, State.done_memRead, State.setPayLen_memRead]

/-- Settles O19: the two bytes of R151 by the laws of a written byte sequence, the rest of the state by PK16's equation. -/
theorem pk16WritesBigEndianPayload : Obligations.Pk16WritesBigEndianPayload := by
  refine ⟨rfl, fun s => ?_⟩
  have hexec : exec .pk16 s = .next _ := execPk16_eq s
  have hread := execPk16_memRead s _ hexec
  have hwritten := s.memRead_memWriteList .pay [hiByte s.raw16, loByte s.raw16] 0
  refine ⟨_, hexec, rfl, ?_, ?_, rfl, rfl, fun sp a h => ?_⟩
  · rw [hread, hwritten 0 Nat.zero_lt_two]
    exact hiByte_toNat s.raw16
  · rw [hread, hwritten 1 Nat.one_lt_two]
    exact loByte_toNat s.raw16
  · rw [hread]
    exact s.memRead_memWriteList_ne .pay sp a _ 0 h

end Sys2Proof.Machine
end

section
/-! PROOFS. The calibration lock (43_scaler.md R162, R168). A transaction other than Reset leaves the lock and the two
nominals as they are, or finds the lock open and leaves a sound calibration. -/

namespace Sys2Proof.Machine

/-- What a transaction other than Reset can do to the lock and the nominals. -/
inductive CalibrationStep (s t : State) : Prop where
  | kept (calLock : t.status.calLock = s.status.calLock) (calV : t.calV = s.calV) (calI : t.calI = s.calI)
  | wasOpen (hopen : s.status.calLock = false) (hsound : t.CalibrationSound)

theorem State.calibrationSound_of_open {s : State} (hopen : s.status.calLock = false) : s.CalibrationSound :=
  fun hlock => absurd hlock (by simp [hopen])

theorem CalibrationStep.calibrationSound {s t : State} (hstep : CalibrationStep s t) (hs : s.CalibrationSound) :
    t.CalibrationSound := by
  cases hstep with
  | kept calLock calV calI => simpa only [State.CalibrationSound, calLock, calV, calI] using hs
  | wasOpen _ hsound => exact hsound

/-! ## Commands and transactions -/

/-- CALLOCK changes the lock only from open, and only over two nonzero nominals (43_scaler.md R168). -/
theorem execCallock_calibrationStep (s t : State) (h : execCallock s = .next t) : CalibrationStep s t := by
  obtain ⟨-, rfl⟩ | ⟨-, -, rfl⟩ | ⟨hopen, hV, hI, rfl⟩ := execCallock_cases s t h
  · exact .kept rfl rfl rfl
  · exact .kept rfl rfl rfl
  · exact .wasOpen hopen fun _ => ⟨hV, hI⟩

theorem exec_calibrationStep (i : Instr) (s t : State) (h : exec i s = .next t) : CalibrationStep s t := by
  by_cases hi : i = .callock
  · subst hi
    exact execCallock_calibrationStep s t h
  · obtain ⟨⟨-, -, -, -, -, -, hV, hI, -⟩, -, -, -, -, -, -, -, hlock⟩ := commandsWriteOnlyTheirOutputs i s t h
    exact .kept (hlock hi) hV hI

/-- The host reaches the nominals only while the lock is open (10_state.md R42). -/
theorem State.storeReg_calibrationStep (s : State) (r : Reg) (v : Int) : CalibrationStep s (s.storeReg r v) := by
  cases r with
  | calV | calI =>
    rw [State.storeReg]
    split
    · exact .kept rfl rfl rfl
    · rename_i hopen
      rw [Bool.not_eq_true] at hopen
      exact .wasOpen hopen (State.calibrationSound_of_open hopen)
  | _ => exact .kept rfl rfl rfl

theorem State.regStore_calibrationStep (s : State) (i : BitVec 8) (v : Int) : CalibrationStep s (s.regStore i v) := by
  rw [State.regStore]
  split
  · exact s.storeReg_calibrationStep _ v
  · exact .kept rfl rfl rfl

theorem State.bufWrite_calibrationStep (s : State) (sp : BufSpace) (i : Nat) (v : Int) :
    CalibrationStep s (s.bufWrite sp i v) := by
  simp only [State.bufWrite]
  split
  · cases sp <;> exact .kept rfl rfl rfl
  · exact .kept rfl rfl rfl

theorem perform_calibrationStep (op : HostOp) (s t : State) (hop : op ≠ .reset) (h : perform op s = .next t) :
    CalibrationStep s t := by
  obtain ⟨i, -, rfl⟩ | ⟨v, -, hrun⟩ | ⟨i, v, -, -, rfl⟩ | ⟨sp, i, -, rfl⟩ | ⟨sp, i, v, -, rfl⟩ | ⟨hreset, -⟩ :=
    perform_cases op s t h
  · exact .kept rfl rfl rfl
  · cases exec_calibrationStep _ { s with cmd := truncTo 8 v } t hrun with
    | kept calLock calV calI => exact .kept calLock calV calI
    | wasOpen hopen hsound => exact .wasOpen hopen hsound
  · exact s.regStore_calibrationStep i v
  · exact .kept rfl rfl rfl
  · exact s.bufWrite_calibrationStep sp i v
  · exact absurd hreset hop

theorem perform_reset_calLock (s t : State) (h : perform .reset s = .next t) : t.status.calLock = false := by
  injection h with h
  subst h
  rfl

theorem perform_calibrationSound (op : HostOp) (s t : State) (hs : s.CalibrationSound) (h : perform op s = .next t) :
    t.CalibrationSound := by
  by_cases hop : op = .reset
  · subst hop
    exact State.calibrationSound_of_open (perform_reset_calLock s t h)
  · exact (perform_calibrationStep op s t hop h).calibrationSound hs

/-- Settles O51: an idle step, or one transaction of the owning agent. -/
theorem stepKeepsCalibrationSound : Obligations.StepKeepsCalibrationSound := by
  intro s t hs h
  obtain ⟨-, rfl⟩ | ⟨tr, rest, -, -, hperform⟩ := step_cases s t h
  · exact hs
  · exact perform_calibrationSound tr.op ({ s with pending := rest }.claim tr.agent) t hs hperform

/-- Settles O28: CALLOCK's three ends, then a locked calibration under each transaction. -/
theorem callockLocksNonzeroNominals : Obligations.CallockLocksNonzeroNominals := by
  refine ⟨rfl, fun s => ?_, fun op s t hlock hop h => ?_, perform_reset_calLock⟩
  · obtain ⟨t, ht⟩ := execCallock_next s
    have hbuffers : BuffersSame s t := (exec_sameButRegisters .callock s t (by decide) ht).buffersSame
    obtain ⟨hlock, rfl⟩ | ⟨hopen, hzero, rfl⟩ | ⟨hopen, hV, hI, rfl⟩ := execCallock_cases s t ht
    · exact ⟨_, ht, rfl, hbuffers, (if_pos hlock).mpr rfl⟩
    · exact ⟨_, ht, rfl, hbuffers, (if_neg (by simp [hopen])).mpr ((if_pos hzero).mpr rfl)⟩
    · exact ⟨_, ht, rfl, hbuffers, (if_neg (by simp [hopen])).mpr ((if_neg (by simp [hV, hI])).mpr rfl)⟩
  · cases perform_calibrationStep op s t hop h with
    | kept calLock calV calI => exact ⟨calLock.trans hlock, calV, calI⟩
    | wasOpen hopen _ => simp [hlock] at hopen

end Sys2Proof.Machine
end

section
/-! PROOFS. `round_div` and the scaling laws (43_scaler.md R161, R163, R166, R167). `round_div(a, b)` is the quotient
toward −∞ or its successor, whichever leaves the smaller remainder. -/

namespace Sys2Proof.Machine

/-! ## The ends of `round_div` -/

section
variable {ties : RoundTies} {a b : Int}

theorem sub_ediv_mul_self (a b : Int) : a - a / b * b = a % b := by
  rw [Int.emod_def, mul_comm]

theorem roundDiv_of_lt (h : 2 * (a % b) < b) : roundDiv ties a b = a / b := by
  simp only [roundDiv, sub_ediv_mul_self, if_pos h]

theorem roundDiv_of_gt (h : b < 2 * (a % b)) : roundDiv ties a b = a / b + 1 := by
  simp only [roundDiv, sub_ediv_mul_self, if_neg h.not_gt, if_pos h]

theorem roundDiv_even_of_half (h : 2 * (a % b) = b) :
    roundDiv .even a b = if a / b % 2 = 0 then a / b else a / b + 1 := by
  simp only [roundDiv, sub_ediv_mul_self, if_neg h.not_lt, if_neg h.not_gt]

theorem roundDiv_away_of_half (h : 2 * (a % b) = b) :
    roundDiv .away a b = if 0 ≤ a then a / b + 1 else a / b := by
  simp only [roundDiv, sub_ediv_mul_self, if_neg h.not_lt, if_neg h.not_gt]

/-- What `round_div` leaves over: the remainder, or the remainder less the divisor. -/
theorem roundDiv_remainder_cases (ties : RoundTies) (a b : Int) :
    (2 * (a % b) ≤ b ∧ a - roundDiv ties a b * b = a % b) ∨
    (b ≤ 2 * (a % b) ∧ a - roundDiv ties a b * b = a % b - b) := by
  have hfloor : a - a / b * b = a % b := sub_ediv_mul_self a b
  have hsucc : a - (a / b + 1) * b = a % b - b := by rw [← hfloor]; ring
  obtain hlt | hhalf | hgt := lt_trichotomy (2 * (a % b)) b
  · exact .inl ⟨hlt.le, by rw [roundDiv_of_lt hlt, hfloor]⟩
  · have hend : roundDiv ties a b = a / b ∨ roundDiv ties a b = a / b + 1 := by
      cases ties with
      | even => rw [roundDiv_even_of_half hhalf]; split_ifs <;> simp
      | away => rw [roundDiv_away_of_half hhalf]; split_ifs <;> simp
    obtain hend | hend := hend
    · exact .inl ⟨hhalf.le, by rw [hend, hfloor]⟩
    · exact .inr ⟨hhalf.ge, by rw [hend, hsucc]⟩
  · exact .inr ⟨hgt.le, by rw [roundDiv_of_gt hgt, hsucc]⟩

/-! ## Nearest, and exact halves -/

theorem roundDiv_error_bounds (ties : RoundTies) (a : Int) (hb : 1 ≤ b) :
    -b ≤ 2 * (a - roundDiv ties a b * b) ∧ 2 * (a - roundDiv ties a b * b) ≤ b := by
  have hnonneg : 0 ≤ a % b := Int.emod_nonneg a (by omega)
  have hlt : a % b < b := Int.emod_lt_of_pos a (by omega)
  obtain ⟨h, hrem⟩ | ⟨h, hrem⟩ := roundDiv_remainder_cases ties a b
  · omega
  · omega

/-- `round_div` is within half a unit (43_scaler.md R161). -/
theorem roundDiv_error (ties : RoundTies) (a : Int) (hb : 1 ≤ b) : 2 * |a - roundDiv ties a b * b| ≤ b := by
  have h := abs_le.mpr (roundDiv_error_bounds ties a hb)
  rwa [abs_mul, abs_two] at h

/-- Only an exact half is half a unit away. -/
theorem half_of_roundDiv_error_eq (hb : 1 ≤ b) (h : 2 * |a - roundDiv ties a b * b| = b) : 2 * (a % b) = b := by
  have hnonneg : 0 ≤ a % b := Int.emod_nonneg a (by omega)
  have hlt : a % b < b := Int.emod_lt_of_pos a (by omega)
  obtain ⟨-, hrem⟩ | ⟨-, hrem⟩ := roundDiv_remainder_cases ties a b
  · rwa [hrem, abs_of_nonneg hnonneg] at h
  · rw [hrem, abs_of_nonpos (by omega)] at h
    omega

theorem roundDiv_even_emod_two (h : 2 * (a % b) = b) : roundDiv .even a b % 2 = 0 := by
  rw [roundDiv_even_of_half h]
  split_ifs <;> omega

theorem abs_lt_abs_roundDiv_away_mul (hb : 1 ≤ b) (h : 2 * (a % b) = b) : |a| < |roundDiv .away a b * b| := by
  have hfloor : a - a / b * b = a % b := sub_ediv_mul_self a b
  rw [roundDiv_away_of_half h]
  split_ifs with ha
  · rw [abs_of_nonneg ha]
    exact lt_of_lt_of_le (by linarith) (le_abs_self _)
  · rw [abs_of_neg (by omega)]
    exact lt_of_lt_of_le (by linarith) (neg_le_abs _)

end

/-- Settles O21: the remainder is at most half the divisor, and at half of it the tie rule decides. -/
theorem roundDivIsNearest : Obligations.RoundDivIsNearest := by
  intro ties a b hb
  refine ⟨roundDiv_error ties a hb, fun h => ?_⟩
  have hhalf := half_of_roundDiv_error_eq hb h
  cases ties with
  | even => exact roundDiv_even_emod_two hhalf
  | away => exact abs_lt_abs_roundDiv_away_mul hb hhalf

/-! ## Consequences of being nearest -/

section
variable (ties : RoundTies) {a b : Int} (hb : 1 ≤ b)
include hb

/-- Quotients in the wrong order would put the two numerators, each within half of b, in the wrong order too. -/
theorem roundDiv_mono {c : Int} (hac : a ≤ c) : roundDiv ties a b ≤ roundDiv ties c b := by
  obtain rfl | hlt := hac.eq_or_lt
  · exact le_rfl
  by_contra! hgt
  obtain ⟨ha, -⟩ := roundDiv_error_bounds ties a hb
  obtain ⟨-, hc⟩ := roundDiv_error_bounds ties c hb
  have hstep : (roundDiv ties c b + 1) * b ≤ roundDiv ties a b * b := mul_le_mul_of_nonneg_right hgt (by omega)
  linarith

theorem roundDiv_mul_self (k : Int) : roundDiv ties (k * b) b = k := by
  rw [roundDiv_of_lt (by simp; omega), Int.mul_ediv_cancel k (by omega)]

theorem roundDiv_nonneg (ha : 0 ≤ a) : 0 ≤ roundDiv ties a b := by
  have hzero := roundDiv_mul_self ties hb 0
  rw [zero_mul] at hzero
  exact hzero ▸ roundDiv_mono ties hb ha

theorem roundDiv_le {k : Int} (ha : a ≤ k * b) : roundDiv ties a b ≤ k :=
  (roundDiv_mono ties hb ha).trans_eq (roundDiv_mul_self ties hb k)

end

/-! ## The laws of the two conversions -/

section
variable (ties : RoundTies) {n : Int}

theorem scaleUp_mono {p q : Int} (hn : 1 ≤ n) (hpq : p ≤ q) : scaleUp ties p n ≤ scaleUp ties q n :=
  roundDiv_mono ties hn (mul_le_mul_of_nonneg_right hpq (by decide))

theorem scaleUp_nonneg {p : Int} (hn : 1 ≤ n) (hp : 0 ≤ p) : 0 ≤ scaleUp ties p n :=
  roundDiv_nonneg ties hn (mul_nonneg hp (by decide))

theorem scaleUp_le_fullScale {p : Int} (hn : 1 ≤ n) (hp : p ≤ n) : scaleUp ties p n ≤ 25600 := by
  refine roundDiv_le ties hn ?_
  rw [fullScale_eq]
  omega

theorem scaleUp_error (p : Int) (hn : 1 ≤ n) : 2 * |scaleUp ties p n * n - p * 25600| ≤ n := by
  rw [abs_sub_comm]
  exact roundDiv_error ties (p * 25600) hn

theorem scaleUp_fullScale (p : Int) : scaleUp ties p 25600 = p :=
  roundDiv_mul_self ties (by decide) p

theorem scaleDown_mono {r q : Int} (hn : 0 ≤ n) (hrq : r ≤ q) : scaleDown ties r n ≤ scaleDown ties q n :=
  roundDiv_mono ties (by decide) (mul_le_mul_of_nonneg_left hrq hn)

theorem scaleDown_nonneg {r : Int} (hn : 0 ≤ n) (hr : 0 ≤ r) : 0 ≤ scaleDown ties r n :=
  roundDiv_nonneg ties (by decide) (mul_nonneg hn hr)

theorem scaleDown_fullScale (n : Int) : scaleDown ties 25600 n = n :=
  roundDiv_mul_self ties (by decide) n

theorem scaleDown_error (n r : Int) : 2 * |scaleDown ties r n * 25600 - n * r| ≤ 25600 := by
  rw [abs_sub_comm]
  exact roundDiv_error ties (n * r) (by decide)

/-- The round trip's error, as R167 adds it up from the errors of the two conversions. -/
theorem scaleDown_scaleUp_error (v : Int) (hn : 1 ≤ n) :
    51200 * |scaleDown ties (scaleUp ties v n) n - v| ≤ n + 25600 := by
  have hup := scaleUp_error ties v hn
  have hdown := scaleDown_error ties n (scaleUp ties v n)
  generalize scaleUp ties v n = r at *
  generalize scaleDown ties r n = p at *
  have hsum : |(p - v) * 25600| ≤ |p * 25600 - n * r| + |r * n - v * 25600| := by
    calc |(p - v) * 25600| = |(p * 25600 - n * r) + (r * n - v * 25600)| := congrArg abs (by ring)
      _ ≤ |p * 25600 - n * r| + |r * n - v * 25600| := abs_add_le _ _
  rw [abs_mul, Nat.abs_ofNat] at hsum
  linarith

end

/-- Settles O26: `round_div` by 25600 is monotone and nearest, and gives N back at R = 25600. -/
theorem scaleDownLaws : Obligations.ScaleDownLaws := by
  intro ties n hn
  refine ⟨fun r q hrq => scaleDown_mono ties hn hrq, scaleDown_error ties n, fun r h0 hr => ?_⟩
  exact ⟨scaleDown_nonneg ties hn h0, (scaleDown_mono ties hn hr).trans_eq (scaleDown_fullScale ties n)⟩

end Sys2Proof.Machine
end

section
/-! PROOFS. The scaler's commands (43_scaler.md R162 to R167): when SCUP and SCDN answer a next state, what they leave in
RAW16 and PHYS, and the round trip on one channel. -/

namespace Sys2Proof.Machine

/-! ## Before CALLOCK, and the model's one stop -/

theorem scaleUpChannel_of_open (ch : Channel) {s : State} (hopen : s.status.calLock = false) :
    scaleUpChannel ch s = .next (s.raise .notCalibrated) :=
  if_pos hopen

theorem scaleDownChannel_of_open (ch : Channel) {s : State} (hopen : s.status.calLock = false) :
    scaleDownChannel ch s = .next (s.raise .notCalibrated) :=
  if_pos hopen

/-- Settles O24: each of the four raises NOT_CALIBRATED, which writes STATUS alone. -/
theorem scalerNeedsCalibration : Obligations.ScalerNeedsCalibration := by
  intro i hi s hopen
  have hraise : exec i s = .next (s.raise .notCalibrated) := by
    simp only [List.mem_cons, List.not_mem_nil, or_false] at hi
    obtain rfl | rfl | rfl | rfl := hi
    · exact scaleUpChannel_of_open .voltage hopen
    · exact scaleUpChannel_of_open .current hopen
    · exact scaleDownChannel_of_open .voltage hopen
    · exact scaleDownChannel_of_open .current hopen
  exact ⟨_, hraise, rfl, rfl, State.raise_memRead s _⟩

theorem scaleUpChannel_next_of_nominal (ch : Channel) (s : State) (hnominal : s.nominal ch ≠ 0#32) :
    ∃ t, scaleUpChannel ch s = .next t := by
  simp only [scaleUpChannel, if_neg hnominal]
  split_ifs <;> exact ⟨_, rfl⟩

theorem scaleUpChannel_eq_fault_iff (ch : Channel) (s : State) (f : Fault) :
    scaleUpChannel ch s = .fault f ↔ s.status.calLock = true ∧ s.nominal ch = 0#32 := by
  constructor
  · intro h
    by_contra hnot
    obtain hopen | hnominal := not_and_or.mp hnot
    · rw [scaleUpChannel_of_open ch (by simpa using hopen)] at h
      exact nomatch h
    · obtain ⟨t, ht⟩ := scaleUpChannel_next_of_nominal ch s hnominal
      exact nomatch ht.symm.trans h
  · rintro ⟨hlock, hzero⟩
    cases f
    simp [scaleUpChannel, hlock, hzero]

theorem exec_next_of_not_scup (i : Instr) (s : State) (hi : i ∉ [Instr.scupV, .scupI]) : ∃ t, exec i s = .next t := by
  cases i with
  | scupV | scupI => simp at hi
  | nop | clrerr | csclr | csadd | pk16 | unassigned _ | tgQuery _ | tgSend _ => exact ⟨_, rfl⟩
  | encQ => exact encodeTelegram_next .query s
  | encS => exact encodeTelegram_next .send s
  | dec => exact execDec_next s
  | unpk16 => exact execUnpk16_next s
  | f32bits => exact execF32bits_next s
  | scdnV => exact scaleDownChannel_next .voltage s
  | scdnI => exact scaleDownChannel_next .current s
  | callock => exact execCallock_next s

/-- Settles O29: SCUP on each channel, and every other command answers a next state. -/
theorem scupFaultsOnlyOnLockedZeroNominal : Obligations.ScupFaultsOnlyOnLockedZeroNominal := by
  intro i s f
  by_cases hi : i ∈ [Instr.scupV, .scupI]
  · simp only [List.mem_cons, List.not_mem_nil, or_false] at hi
    obtain rfl | rfl := hi
    · exact (scaleUpChannel_eq_fault_iff .voltage s f).trans (by simp [State.nominal])
    · exact (scaleUpChannel_eq_fault_iff .current s f).trans (by simp [State.nominal])
  · obtain ⟨t, ht⟩ := exec_next_of_not_scup i s hi
    simp only [List.mem_cons, List.not_mem_nil, or_false, not_or] at hi
    simp [ht, hi]

/-! ## SCUP -/

theorem scaleUpChannel_scales (ch : Channel) (s : State) (hlock : s.status.calLock = true)
    (hnominal : s.nominal ch ≠ 0#32) :
    ∃ t, scaleUpChannel ch s = .next t ∧ t = { s with raw16 := t.raw16, status := t.status } ∧ BuffersSame s t ∧
      if scaleUp s.params.ties s.phys.toInt (s.nominal ch).toNat < -32768 ∨
          32767 < scaleUp s.params.ties s.phys.toInt (s.nominal ch).toNat then
        StatusRaised 10#4 s t ∧ t.raw16 = s.raw16
      else StatusDone s t ∧ t.raw16.toInt = scaleUp s.params.ties s.phys.toInt (s.nominal ch).toNat := by
  obtain ⟨t, ht⟩ := scaleUpChannel_next_of_nominal ch s hnominal
  obtain ⟨hopen, -⟩ | ⟨-, -, r, rfl, ⟨hrange, rfl⟩ | ⟨hlo, hhi, rfl⟩⟩ := scaleUpChannel_cases ch s t ht
  · simp [hlock] at hopen
  · exact ⟨_, ht, rfl, State.raise_memRead s _, (if_pos hrange).mpr ⟨rfl, rfl⟩⟩
  · have hfits := not_or.mpr ⟨hlo.not_gt, hhi.not_gt⟩
    exact ⟨_, ht, rfl, fun sp a => by simp,
      (if_neg hfits).mpr ⟨rfl, BitVec.toInt_ofInt_eq_self (by decide) hlo (Int.lt_add_one_of_le hhi)⟩⟩

/-- Settles O22: NOT_CALIBRATED is O24's, and the rest is one channel's SCUP. -/
theorem scupScalesUp : Obligations.ScupScalesUp := by
  refine ⟨rfl, rfl, fun p hp s => ?_⟩
  simp only [List.mem_cons, List.not_mem_nil, or_false] at hp
  obtain rfl | rfl := hp
  · exact ⟨scalerNeedsCalibration .scupV (by decide) s, scaleUpChannel_scales .voltage s⟩
  · exact ⟨scalerNeedsCalibration .scupI (by decide) s, scaleUpChannel_scales .current s⟩

/-- Settles O25: the laws of `scale_up`, which for N = 25600 is P itself, so that RANGE's edges are RAW16's. -/
theorem scaleUpLaws : Obligations.ScaleUpLaws := by
  refine ⟨fun ties => ⟨fun p q n hn hpq => scaleUp_mono ties hn hpq,
    fun p n hn h0 hp => ⟨scaleUp_nonneg ties hn h0, scaleUp_le_fullScale ties hn hp⟩,
    fun p n hn => scaleUp_error ties p hn⟩, fun s t hlock hV h => ?_⟩
  have hphys : scaleUp s.params.ties s.phys.toInt (s.nominal .voltage).toNat = s.phys.toInt := by
    rw [show s.nominal .voltage = 25600#32 from hV]
    exact scaleUp_fullScale s.params.ties s.phys.toInt
  obtain ⟨hopen, -⟩ | ⟨-, -, r, hr, ⟨hrange, rfl⟩ | ⟨hlo, hhi, rfl⟩⟩ := scaleUpChannel_cases .voltage s t h
  · simp [hlock] at hopen
  · rw [hr, hphys] at hrange
    exact ⟨by omega, fun _ => ⟨rfl, rfl⟩, by omega, fun _ => ⟨rfl, rfl⟩⟩
  · rw [hr, hphys] at hlo hhi ⊢
    exact ⟨fun hp => ⟨congrArg (BitVec.ofInt 16) hp, rfl⟩, by omega, fun hp => ⟨congrArg (BitVec.ofInt 16) hp, rfl⟩,
      by omega⟩

/-! ## SCDN -/

theorem scaleDownChannel_scales (ch : Channel) (s : State) (hlock : s.status.calLock = true) :
    ∃ t, scaleDownChannel ch s = .next t ∧ t = { s with phys := t.phys, status := t.status } ∧ BuffersSame s t ∧
      if 2147483647 < scaleDown s.params.ties s.raw16.toNat (s.nominal ch).toNat then
        StatusRaised 10#4 s t ∧ t.phys = s.phys
      else StatusDone s t ∧ t.phys.toInt = scaleDown s.params.ties s.raw16.toNat (s.nominal ch).toNat := by
  obtain ⟨t, ht⟩ := scaleDownChannel_next ch s
  obtain ⟨hopen, -⟩ | ⟨-, p, rfl, ⟨hrange, rfl⟩ | ⟨hfits, rfl⟩⟩ := scaleDownChannel_cases ch s t ht
  · simp [hlock] at hopen
  · exact ⟨_, ht, rfl, State.raise_memRead s _, (if_pos hrange).mpr ⟨rfl, rfl⟩⟩
  · have hnonneg := scaleDown_nonneg s.params.ties (Int.natCast_nonneg (s.nominal ch).toNat)
      (Int.natCast_nonneg s.raw16.toNat)
    exact ⟨_, ht, rfl, fun sp a => by simp, (if_neg hfits.not_gt).mpr
      ⟨rfl, BitVec.toInt_ofInt_eq_self (by decide) (by omega) (Int.lt_add_one_of_le hfits)⟩⟩

/-- Settles O23: NOT_CALIBRATED is O24's, and the rest is one channel's SCDN. -/
theorem scdnScalesDown : Obligations.ScdnScalesDown := by
  refine ⟨rfl, rfl, fun p hp s => ?_⟩
  simp only [List.mem_cons, List.not_mem_nil, or_false] at hp
  obtain rfl | rfl := hp
  · exact ⟨scalerNeedsCalibration .scdnV (by decide) s, scaleDownChannel_scales .voltage s⟩
  · exact ⟨scalerNeedsCalibration .scdnI (by decide) s, scaleDownChannel_scales .current s⟩

/-! ## The round trip -/

section
variable (ch : Channel) (s : State) (hlock : s.status.calLock = true) (hN : 1 ≤ (s.nominal ch).toNat)
  (h0 : 0 ≤ s.phys.toInt) (hV : s.phys.toInt ≤ (s.nominal ch).toNat)
include hlock hN h0 hV

/-- A value within the nominal scales up to a raw value in 0..25600, which RAW16 holds as an unsigned number too. -/
theorem scaleUpChannel_of_le_nominal :
    ∃ t, scaleUpChannel ch s = .next t ∧ t = { s with raw16 := t.raw16, status := t.status } ∧
      t.status.calLock = true ∧
      (t.raw16.toNat : Int) = scaleUp s.params.ties s.phys.toInt (s.nominal ch).toNat := by
  have hnominal : s.nominal ch ≠ 0#32 := by
    intro h
    simp [h] at hN
  obtain ⟨t, ht, hframe, -, hscaled⟩ := scaleUpChannel_scales ch s hlock hnominal
  have hlo := scaleUp_nonneg s.params.ties (Int.ofNat_le.mpr hN) h0
  have hhi := scaleUp_le_fullScale s.params.ties (Int.ofNat_le.mpr hN) hV
  obtain ⟨hdone, hraw⟩ := (if_neg (by omega)).mp hscaled
  refine ⟨t, ht, hframe, by rw [hdone, hlock], ?_⟩
  have hmsb : t.raw16.msb = false := by
    rw [BitVec.msb_eq_toInt, hraw]
    exact decide_eq_false hlo.not_gt
  rw [← hraw, BitVec.toInt_eq_toNat_of_msb hmsb]

/-- R167's bound, before the division by 51200. Where SCDN raises RANGE, PHYS is as before. -/
theorem scaleDownChannel_scaleUpChannel_error :
    ∃ t u, scaleUpChannel ch s = .next t ∧ scaleDownChannel ch t = .next u ∧
      51200 * |u.phys.toInt - s.phys.toInt| ≤ (s.nominal ch).toNat + 25600 := by
  obtain ⟨t, ht, hframe, htlock, hraw⟩ := scaleUpChannel_of_le_nominal ch s hlock hN h0 hV
  have hparams : t.params = s.params := by rw [hframe]
  have hphys : t.phys = s.phys := by rw [hframe]
  have hnominal : t.nominal ch = s.nominal ch := by rw [hframe]; cases ch <;> rfl
  obtain ⟨u, hu, -, -, hscaled⟩ := scaleDownChannel_scales ch t htlock
  refine ⟨t, u, ht, hu, ?_⟩
  rw [hraw, hparams, hphys, hnominal] at hscaled
  split_ifs at hscaled
  · obtain ⟨-, hsame⟩ := hscaled
    rw [hsame, sub_self, abs_zero]
    omega
  · obtain ⟨-, hdown⟩ := hscaled
    rw [hdown]
    exact scaleDown_scaleUp_error _ _ (Int.ofNat_le.mpr hN)

end

/-- R167's three readings of the bound. -/
theorem roundTrip_bounds {x y : Word} {n : Nat} (h : 51200 * |x.toInt - y.toInt| ≤ n + 25600) :
    |x.toInt - y.toInt| ≤ ((n : Int) + 25600) / 51200 ∧ (n < 25600 → x = y) ∧
      (25600 ≤ n → |x.toInt - y.toInt| * 25600 ≤ n) := by
  have hnonneg : 0 ≤ |x.toInt - y.toInt| := abs_nonneg _
  refine ⟨by omega, fun hn => ?_, by omega⟩
  have hzero : |x.toInt - y.toInt| = 0 := by omega
  exact BitVec.eq_of_toInt_eq (sub_eq_zero.mp (abs_eq_zero.mp hzero))

/-- Settles O27: the two rounding errors added up, on either channel. -/
theorem scaleRoundTrip : Obligations.ScaleRoundTrip := by
  intro p hp s hlock hN h0 hV
  simp only [List.mem_cons, List.not_mem_nil, or_false] at hp
  obtain rfl | rfl := hp
  · obtain ⟨t, u, ht, hu, herror⟩ := scaleDownChannel_scaleUpChannel_error .voltage s hlock hN h0 hV
    exact ⟨t, u, ht, hu, roundTrip_bounds herror⟩
  · obtain ⟨t, u, ht, hu, herror⟩ := scaleDownChannel_scaleUpChannel_error .current s hlock hN h0 hV
    exact ⟨t, u, ht, hu, roundTrip_bounds herror⟩

end Sys2Proof.Machine
end

section
/-! PROOFS. The control commands and the unassigned codes (44_control.md R180 to R182). NOP is `done` alone; of the
commands' outputs CLRERR's alone touch STICKY, and neither end clears it; a code outside the opcode map is `raise` alone. -/

namespace Sys2Proof.Machine

/-! ## NOP and CLRERR -/

@[simp] theorem exec_nop (s : State) : exec .nop s = .next s.done := rfl

@[simp] theorem exec_clrerr (s : State) : exec .clrerr s = .next s.clearSticky.done := rfl

/-- Settles O3: NOP ends in `done`, which writes ERR alone, and a CMD write of 0 runs it. -/
theorem nopOnlyClearsErr : Obligations.NopOnlyClearsErr :=
  ⟨rfl, fun s => ⟨⟨_, exec_nop s, rfl, rfl, s.done_memRead⟩, perform_regWrite_cmd s 0⟩⟩

/-- Among the commands' outputs only CLRERR's touch STICKY (10_state.md R50, 44_control.md R181). -/
theorem CommandOutputs.sticky {s u : State} {i : Instr} (hi : i ≠ .clrerr) (h : CommandOutputs s u i) :
    u.status.sticky = s.status.sticky := by
  cases i with
  | clrerr => exact absurd rfl hi
  | nop | unassigned _ | tgQuery _ | tgSend _ => obtain rfl := h; rfl
  | csclr | csadd | unpk16 | scupV | scupI | f32bits | scdnV | scdnI => obtain ⟨v, rfl⟩ := h; rfl
  | encQ | encS => obtain ⟨m, len, cs, rfl⟩ := h; rfl
  | pk16 => obtain ⟨m, n, rfl⟩ := h; rfl
  | dec => obtain ⟨c, r, rfl | ⟨ack, n, f, rfl⟩⟩ := h <;> rfl
  | callock => obtain rfl | rfl := h <;> rfl

/-- Neither end of a command clears STICKY: `done` keeps it and `raise` sets it. -/
theorem State.EndsAs.sticky {u t : State} (h : u.EndsAs t) (hu : u.status.sticky = true) : t.status.sticky = true := by
  obtain rfl | ⟨e, rfl⟩ := h
  · exact hu
  · rfl

theorem perform_reset_sticky (s t : State) (h : perform .reset s = .next t) : t.status.sticky = false := by
  injection h with h
  subst h
  rfl

/-- Settles O4: CLRERR's two writes, then STICKY through any other command's outputs and its end, then Reset. -/
theorem clrerrAloneClearsSticky : Obligations.ClrerrAloneClearsSticky := by
  refine ⟨rfl, fun s => ⟨_, exec_clrerr s, rfl, rfl, fun sp a => by simp⟩, fun i s t hi h hs => ?_, perform_reset_sticky⟩
  obtain ⟨u, hout, hend⟩ := exec_outputs i s t h
  exact hend.sticky ((hout.sticky hi).trans hs)

/-! ## The unassigned codes -/

@[simp] theorem exec_unassigned (c : Byte) (s : State) : exec (.unassigned c) s = .next (s.raise .illegalCmd) := rfl

/-- A code outside the opcode map raises ILLEGAL_CMD, whichever instruction it decodes to (30_encoding.md R88, log 7). -/
theorem exec_decodeByte_of_notMem {c : Byte} (hc : c ∉ assignedCodes) (s : State) :
    exec (decodeByte c) s = .next (s.raise .illegalCmd) := by
  obtain hmap | ⟨k, l, rfl⟩ | hwf := commandWord_cases c
  · exact absurd ((mem_assignedCodes_iff c).mpr hmap) hc
  · rw [decodeByte_highNibble_append, exec_delimiterRow]
  · rw [decodeByte_of_unassigned_wellFormed hwf, exec_unassigned]

@[simp] theorem truncTo_toNat {n : Nat} (x : BitVec n) : truncTo n (x.toNat : Int) = x := by
  rw [truncTo, BitVec.ofInt_natCast, BitVec.ofNat_toNat, BitVec.setWidth_eq]

/-- Settles O5: the CMD write stores the code and runs it, and both clauses end in `raise`, which writes STATUS alone. -/
theorem unassignedCodesRaiseIllegalCmd : Obligations.UnassignedCodesRaiseIllegalCmd := by
  refine ⟨fun s c hc => ?_, fun s c => ⟨_, exec_unassigned c s, rfl, rfl, s.raise_memRead _⟩, by decide +kernel⟩
  have hrun : perform (.regWrite 0x00#8 (c.toNat : Int)) s = .next (State.raise { s with cmd := c } .illegalCmd) := by
    rw [perform_regWrite_cmd, truncTo_toNat, exec_decodeByte_of_notMem hc]
  exact ⟨_, hrun, rfl, rfl, rfl, State.raise_memRead { s with cmd := c } _⟩

end Sys2Proof.Machine
end

section
/-! PROOFS. Errors and refusals (60_exceptions.md R190, R203, R212): what each end of a command leaves in ERR and STICKY,
the error codes that each command can raise, and the refusal of a second agent. -/

namespace Sys2Proof.Machine

/-! ## The two ends of a command -/

/-- Code 0 is no error's (60_exceptions.md R190). -/
theorem EngineError.code_ne_zero (e : EngineError) : e.code ≠ 0#4 := by
  cases e <;> decide

/-- `raise` records its error in STICKY; `done` records none and keeps STICKY (10_state.md R47). -/
theorem State.EndsAs.err_sticky {u t : State} (h : u.EndsAs t) :
    (t.status.err = 0#4 ∧ t.status.sticky = u.status.sticky) ∨ (t.status.err ≠ 0#4 ∧ t.status.sticky = true) := by
  obtain rfl | ⟨e, rfl⟩ := h
  · exact .inl ⟨rfl, rfl⟩
  · exact .inr ⟨e.code_ne_zero, rfl⟩

/-! ## The error codes of each command -/

theorem encodeTelegram_err (k : RequestKind) (s t : State) (h : encodeTelegram k s = .next t) :
    t.status.err ∈ [0#4, 2#4] := by
  obtain ⟨-, rfl⟩ | ⟨-, rfl⟩ := encodeTelegram_cases k s t h <;> simp [EngineError.code]

theorem execDec_err (s t : State) (h : execDec s = .next t) : t.status.err ∈ [0#4, 3#4, 4#4, 5#4, 6#4] := by
  obtain ⟨-, rfl⟩ | ⟨-, -, rfl⟩ | ⟨-, -, c, r, -, -, ⟨-, rfl⟩ | ⟨-, rfl⟩⟩ := execDec_cases s t h
  · simp [EngineError.code]
  · simp [EngineError.code]
  · simp [EngineError.code]
  · obtain ⟨-, herr | herr, -⟩ := (s.clearDecResults.setSums c r).classifyFrame_status <;> simp [herr]

theorem execUnpk16_err (s t : State) (h : execUnpk16 s = .next t) : t.status.err ∈ [0#4, 3#4, 7#4] := by
  obtain ⟨-, rfl⟩ | ⟨-, -, rfl⟩ | ⟨-, -, rfl⟩ := execUnpk16_cases s t h <;> simp [EngineError.code]

theorem execF32bits_err (s t : State) (h : execF32bits s = .next t) : t.status.err ∈ [0#4, 3#4, 7#4] := by
  obtain ⟨-, rfl⟩ | ⟨-, -, rfl⟩ | ⟨-, -, rfl⟩ := execF32bits_cases s t h <;> simp [EngineError.code]

theorem scaleUpChannel_err (ch : Channel) (s t : State) (h : scaleUpChannel ch s = .next t) :
    t.status.err ∈ [0#4, 8#4, 10#4] := by
  obtain ⟨-, rfl⟩ | ⟨-, -, r, -, ⟨-, rfl⟩ | ⟨-, -, rfl⟩⟩ := scaleUpChannel_cases ch s t h <;> simp [EngineError.code]

theorem scaleDownChannel_err (ch : Channel) (s t : State) (h : scaleDownChannel ch s = .next t) :
    t.status.err ∈ [0#4, 8#4, 10#4] := by
  obtain ⟨-, rfl⟩ | ⟨-, p, -, ⟨-, rfl⟩ | ⟨-, rfl⟩⟩ := scaleDownChannel_cases ch s t h <;> simp [EngineError.code]

theorem execCallock_err (s t : State) (h : execCallock s = .next t) : t.status.err ∈ [0#4, 9#4] := by
  obtain ⟨-, rfl⟩ | ⟨-, -, rfl⟩ | ⟨-, -, -, rfl⟩ := execCallock_cases s t h <;> simp [EngineError.code]

/-- The codes of 60_exceptions.md R190, command by command. -/
theorem exec_err (i : Instr) (s t : State) (h : exec i s = .next t) : t.status.err ∈ allowedErr i := by
  cases i with
  | nop | clrerr | csclr | csadd | pk16 => injection h with h; subst h; exact List.mem_singleton_self 0#4
  | unassigned _ | tgQuery _ | tgSend _ => injection h with h; subst h; exact List.mem_singleton_self 1#4
  | encQ => exact encodeTelegram_err .query s t h
  | encS => exact encodeTelegram_err .send s t h
  | dec => exact execDec_err s t h
  | unpk16 => exact execUnpk16_err s t h
  | f32bits => exact execF32bits_err s t h
  | scupV => exact scaleUpChannel_err .voltage s t h
  | scupI => exact scaleUpChannel_err .current s t h
  | scdnV => exact scaleDownChannel_err .voltage s t h
  | scdnI => exact scaleDownChannel_err .current s t h
  | callock => exact execCallock_err s t h

/-- Settles O31: the codes command by command, and STICKY by the command's end over outputs that keep it. -/
theorem errorCodesPerCommand : Obligations.ErrorCodesPerCommand := by
  intro i s t h
  refine ⟨exec_err i s t h, ?_⟩
  obtain ⟨u, hout, hend⟩ := exec_outputs i s t h
  obtain ⟨hzero, hkept⟩ | ⟨hne, hset⟩ := hend.err_sticky
  · exact ⟨absurd hzero, fun _ hi => hkept.trans (hout.sticky hi)⟩
  · exact ⟨fun _ => hset, fun hzero => absurd hzero hne⟩

/-! ## The second agent -/

/-- What one agent has used is no other agent's (60_exceptions.md R212). -/
theorem State.not_ownedBy {s : State} {a b : Nat} (howner : s.owner = some a) (hne : b ≠ a) : ¬s.ownedBy b = true := by
  simp [State.ownedBy, howner, hne.symm]

/-- Settles O39: the queue's head is another agent's. -/
theorem secondHostIsRefused : Obligations.SecondHostIsRefused := by
  intro s a b op rest howner hne hp
  exact step_of_not_ownedBy hp (State.not_ownedBy howner hne)

end Sys2Proof.Machine
end

section
/-! PROOFS. Reset and the idle step (70_reset_and_hazards.md R220 to R222): what a Reset leaves in the registers and the
buffers, that the reset state meets the invariants, and that no step changes the parameters. -/

namespace Sys2Proof.Machine

/-! ## The idle step -/

theorem step_of_pending_nil {s : State} (hp : s.pending = []) : step s = .next s := by
  rw [step, nextTransaction, hp]

/-- Settles O38: the queue is empty, so no transaction happens. -/
theorem idleStepChangesNothing : Obligations.IdleStepChangesNothing :=
  fun _ => step_of_pending_nil

/-! ## What a Reset leaves -/

theorem perform_reset (s : State) : perform .reset s = .next s.hardReset := rfl

theorem State.reset_readReg (r : Reg) : State.reset.readReg r = 0#32 := by
  cases r <;> rfl

/-- A Reset keeps the parameters and the model's own fields, which no register shows. -/
theorem State.hardReset_readReg (s : State) (r : Reg) : s.hardReset.readReg r = State.reset.readReg r := by
  cases r <;> rfl

/-- When every mapped register reads 0, so does every index: the others read 0 on any state (20_memory.md R62). -/
theorem State.regRead_eq_zero {s : State} (hs : ∀ r, s.readReg r = 0#32) (i : BitVec 8) : s.regRead i = 0#32 := by
  rw [State.regRead]
  split
  · exact hs _
  · rfl

/-- Settles O47: every register of the reset state is 0, and a Reset leaves the reset state's registers. -/
theorem resetClearsRegisters : Obligations.ResetClearsRegisters := by
  refine ⟨fun s => ⟨s.hardReset, perform_reset s, State.regRead_eq_zero fun r => ?_, rfl, rfl⟩,
    State.regRead_eq_zero State.reset_readReg, rfl⟩
  rw [State.hardReset_readReg, State.reset_readReg]

/-- No byte is listed after a Reset, so each reads as its free value (logs 5 and 6). -/
theorem State.hardReset_memRead (s : State) (sp : BufSpace) (i : Nat) :
    s.hardReset.memRead sp i = Config.unwrittenByte (s.epoch + 1) sp i := by
  cases sp <;> rfl

/-- Settles O48: no byte is listed, the epoch is counted up, and the host's side stays. -/
theorem resetBytesAreFree : Obligations.ResetBytesAreFree :=
  fun s => ⟨s.hardReset, perform_reset s, s.hardReset_memRead, rfl, rfl, rfl, rfl⟩

/-! ## The invariants at reset -/

theorem State.reset_statusLegal : State.reset.StatusLegal :=
  (State.statusLegal_iff _).mpr ⟨Nat.zero_le 10, FaultReg.clear_legal, id⟩

/-- RX_VALID is 0 and vouches for nothing. -/
theorem State.reset_frameVouched : State.reset.FrameVouched := by
  intro hvalid
  exact absurd hvalid (by decide)

/-- RX_CAP's default is the least legal value (00_scope.md R7). -/
theorem Params.default_legal : Params.default.Legal := by
  decide

/-- Settles O55: the five invariants, then the default parameters. -/
theorem resetMeetsInvariants : Obligations.ResetMeetsInvariants :=
  ⟨State.reset_statusLegal, State.calibrationSound_of_open rfl,
    (State.memoryWf_iff _).mpr fun sp => State.reset_memory_wf _ sp, .inl ⟨rfl, rfl⟩, State.reset_frameVouched,
    Params.default_legal⟩

/-! ## The parameters -/

theorem State.bufWrite_params (s : State) (sp : BufSpace) (i : Nat) (v : Int) :
    (s.bufWrite sp i v).params = s.params := by
  simp only [State.bufWrite]
  split
  · cases sp <;> rfl
  · rfl

/-- No command's outputs hold a parameter (10_state.md R50). -/
theorem exec_params (i : Instr) (s t : State) (h : exec i s = .next t) : t.params = s.params := by
  obtain ⟨⟨-, -, -, -, -, -, -, -, hparams, -⟩, -⟩ := commandsWriteOnlyTheirOutputs i s t h
  exact hparams

theorem perform_params (op : HostOp) (s t : State) (h : perform op s = .next t) : t.params = s.params := by
  obtain ⟨i, -, rfl⟩ | ⟨v, -, hrun⟩ | ⟨i, v, -, -, rfl⟩ | ⟨sp, i, -, rfl⟩ | ⟨sp, i, v, -, rfl⟩ | ⟨-, rfl⟩ :=
    perform_cases op s t h
  · exact s.reply_params _
  · exact exec_params _ { s with cmd := truncTo 8 v } t hrun
  · exact (s.regStore_sameButRegisters i v).params
  · exact s.reply_params _
  · exact s.bufWrite_params sp i v
  · rfl

/-- Settles O49: an idle step, or one transaction of the owning agent. -/
theorem stepKeepsParameters : Obligations.StepKeepsParameters := by
  intro s t h
  obtain ⟨-, rfl⟩ | ⟨tr, rest, -, -, hperform⟩ := step_cases s t h
  · rfl
  · exact perform_params tr.op ({ s with pending := rest }.claim tr.agent) t hperform

end Sys2Proof.Machine
end
